-- ==== Sys2Proof/Word.lean ====
section
/-! DEFINITION. The machine word: every register value, immediate, address and the PC is one word of XLEN bits (R9, R11). -/

namespace Sys2Proof

/-- A data value of `XLEN` bits, held as the number `u(v)` of R11. The width is a launch parameter (D2), so it is no part of
the type: a word of a machine of width `w` is a number below `2 ^ w` (`isWord`), and every stage keeps its words so (log 8). -/
abbrev Word := Nat

/-- The number `v` is a word of `w` bits (R11). -/
abbrev isWord (w v : Nat) : Prop := v < 2 ^ w

end Sys2Proof
end

