-- ==== Sys2Proof/Config.lean ====
section
/-! DEFINITION. What an implementation fixes: the parameters of 00_scope.md R9 with their default values, and the constraints
of R10.
No free value stands here: the spec leaves no value open. -/

namespace Sys2Proof

/-- The parameter record (R9, D1, D2): every size and latency by its name. N_INSN is the length of the store a launch is given. -/
structure Params where
  /-- XLEN: the width of every register value, immediate, address and the PC. -/
  xlen : Nat := 32
  /-- N_ARCH: logical registers. -/
  nArch : Nat := 16
  /-- N_PHYS: physical register slots. -/
  nPhys : Nat := 48
  /-- N_IQ: issue-queue slots. -/
  nIq : Nat := 24
  /-- N_ROB: reorder-buffer entries. -/
  nRob : Nat := 64
  /-- INSN_BYTES: the PC distance between consecutive instructions. -/
  insnBytes : Nat := 4
  /-- BASE_PC: the address of instruction 0 and the reset value of the PC. -/
  basePc : Word := 4000
  /-- DMEM_SIZE: data-memory cells. -/
  dmemSize : Nat := 4096
  /-- L_INT: stages of the integer unit. Fixed (R9). -/
  lInt : Nat := 1
  /-- L_MUL: stages of the multiply pipeline, MUL1 to MUL3. Fixed (R9). -/
  lMul : Nat := 3
  /-- L_BRU: stages of the branch pipeline, BRU1 and BRU2. Fixed (R9). -/
  lBru : Nat := 2
  /-- L_MEM: stages of the memory pipeline. -/
  lMem : Nat := 2
  /-- Z_RESET: the reset value of the zero flag. -/
  zReset : Bool := false
  /-- FETCH_WIDTH: instructions fetched and dispatched per cycle. One, as R105 and R108 have it. -/
  fetchWidth : Nat := 1
  /-- ISSUE_PER_CLASS: instructions issued per class and cycle. One, as R142 has it. -/
  issuePerClass : Nat := 1
  /-- COMMIT_WIDTH: ROB entries retired per cycle; `none` is unbounded, as R250 has it. -/
  commitWidth : Option Nat := none
  deriving DecidableEq, Repr

/-- The parameter record this hardware takes (R9). -/
def Params.default : Params := {}

/-- The constraints of R10 (0 <= Z_RESET <= 1 holds by the type). -/
abbrev Params.Bounds (p : Params) : Prop :=
  1 ≤ p.nArch ∧ 1 ≤ p.nPhys ∧ 1 ≤ p.nIq ∧ 1 ≤ p.nRob ∧ 2 ≤ p.lMem ∧ 2 ≤ p.xlen ∧ 1 ≤ p.dmemSize

/-- The parameters that have one value only: the latencies that R9 marks as fixed, and the widths of R105, R108, R142 and R250.
No rule says what a fourth multiply stage or a second fetch in a cycle would do. INSN_BYTES is positive, since R106 divides by
it, and BASE_PC is a word (log 16). -/
abbrev Params.Fixed (p : Params) : Prop :=
  p.lInt = 1 ∧ p.lMul = 3 ∧ p.lBru = 2 ∧ p.fetchWidth = 1 ∧ p.issuePerClass = 1 ∧ p.commitWidth = none ∧
  1 ≤ p.insnBytes ∧ isWord p.xlen p.basePc

/-- A parameter record that a launch takes (R10). -/
abbrev Params.wf (p : Params) : Prop := p.Bounds ∧ p.Fixed

end Sys2Proof
end

