-- ==== Sys2Proof/Syntax.lean ====
section
/-! DEFINITION. The static-instruction record (R80) and the 20 instructions it can spell (R82, R83). -/

namespace Sys2Proof

/-- A static-instruction record as the loader hands it over (R80): a 5-bit opcode, register fields that may be absent,
and a full-width immediate (R85), a word. Nothing says yet that it spells an instruction: `decode` (Decode.lean) decides that. -/
structure Record where
  opcode : BitVec 5
  rd : Option Nat
  rs1 : Option Nat
  rs2 : Option Nat
  rs3 : Option Nat
  imm : Word
  deriving DecidableEq, Repr

/-- The instructions, one constructor per row of spec/opcode_table.json, each with exactly the fields its format names
(R83), in the order of R90's syntax. A register field is the index of a logical register, R0, R1, ... (R20); `Instr.wf` checks
that it is below N_ARCH, and that an immediate is a word of XLEN bits. -/
inductive Instr where
  | add (rd rs1 rs2 : Nat)
  | sub (rd rs1 rs2 : Nat)
  | addl (rd rs1 : Nat) (imm : Word)
  | subl (rd rs1 : Nat) (imm : Word)
  | and (rd rs1 rs2 : Nat)
  | or (rd rs1 rs2 : Nat)
  | xor (rd rs1 rs2 : Nat)
  | mul (rd rs1 rs2 : Nat)
  | cmp (rd rs1 rs2 : Nat)
  | movc (rd : Nat) (imm : Word)
  | load (rd rs1 : Nat) (imm : Word)
  | store (rs1 rs2 : Nat) (imm : Word)
  | ldr (rd rs1 rs2 : Nat)
  | str (rs1 rs2 rs3 : Nat)
  | jump (rs1 : Nat) (imm : Word)
  | jal (rd rs1 : Nat) (imm : Word)
  | bz (imm : Word)
  | bnz (imm : Word)
  | nop
  | halt
  deriving DecidableEq, Repr

end Sys2Proof
end

