-- ==== Sys2Proof/WellFormed.lean ====
section
/-! DEFINITION. When an instruction is well formed: every register field it names is below N_ARCH (R80, R87), and its
immediate is a word of XLEN bits (R80); any word is a legal immediate (R85). -/

namespace Sys2Proof

/-- Every register field of the instruction names one of the `n` logical registers, and its immediate is a word of `w` bits
(R80, R85, R87). -/
def Instr.wf (n w : Nat) : Instr → Bool
  | .add rd rs1 rs2 => decide (rd < n) && decide (rs1 < n) && decide (rs2 < n)
  | .sub rd rs1 rs2 => decide (rd < n) && decide (rs1 < n) && decide (rs2 < n)
  | .addl rd rs1 imm => decide (rd < n) && decide (rs1 < n) && decide (isWord w imm)
  | .subl rd rs1 imm => decide (rd < n) && decide (rs1 < n) && decide (isWord w imm)
  | .and rd rs1 rs2 => decide (rd < n) && decide (rs1 < n) && decide (rs2 < n)
  | .or rd rs1 rs2 => decide (rd < n) && decide (rs1 < n) && decide (rs2 < n)
  | .xor rd rs1 rs2 => decide (rd < n) && decide (rs1 < n) && decide (rs2 < n)
  | .mul rd rs1 rs2 => decide (rd < n) && decide (rs1 < n) && decide (rs2 < n)
  | .cmp rd rs1 rs2 => decide (rd < n) && decide (rs1 < n) && decide (rs2 < n)
  | .movc rd imm => decide (rd < n) && decide (isWord w imm)
  | .load rd rs1 imm => decide (rd < n) && decide (rs1 < n) && decide (isWord w imm)
  | .store rs1 rs2 imm => decide (rs1 < n) && decide (rs2 < n) && decide (isWord w imm)
  | .ldr rd rs1 rs2 => decide (rd < n) && decide (rs1 < n) && decide (rs2 < n)
  | .str rs1 rs2 rs3 => decide (rs1 < n) && decide (rs2 < n) && decide (rs3 < n)
  | .jump rs1 imm => decide (rs1 < n) && decide (isWord w imm)
  | .jal rd rs1 imm => decide (rd < n) && decide (rs1 < n) && decide (isWord w imm)
  | .bz imm => decide (isWord w imm)
  | .bnz imm => decide (isWord w imm)
  | .nop => true
  | .halt => true

end Sys2Proof
end

