-- ==== Sys2Proof/Decode.lean ====
section
/-! DEFINITION. The boundary that builds the instruction store (R87): from a record to an instruction or a refusal by name, the
key word of R91 to and from a record, and the encoder. -/

namespace Sys2Proof

/-- The register fields of a record (R80). -/
inductive RegField where
  | rd | rs1 | rs2 | rs3
  deriving DecidableEq, Repr

/-- Why a record or a key word spells no instruction. All of them are refusals of a launch (R87, R273). -/
inductive DecodeError where
  /-- The opcode is not one of the 20 values of R82. -/
  | unknownOpcode (op : BitVec 5)
  /-- A register field the format uses is absent (R87). -/
  | absentField (f : RegField)
  /-- A register field the format uses holds a value of N_ARCH or more (R87). -/
  | fieldOutOfRange (f : RegField) (v : Nat)
  /-- An immediate the format uses is no word of XLEN bits (R80, log 8). -/
  | immediateTooWide (v : Nat)
  /-- A 32-bit key image has a bit set above the 21 bits of R91's key word (log 6). -/
  | strayKeyBits
  deriving DecidableEq, Repr

/-- A used register field: present and below `n` = N_ARCH, or the record is refused (R87). -/
def takeReg (n : Nat) (f : RegField) : Option Nat → Except DecodeError Nat
  | none => .error (.absentField f)
  | some v => if v < n then .ok v else .error (.fieldOutOfRange f v)

/-- A used immediate: a word of `w` = XLEN bits, any of which is legal (R80, R85). -/
def takeImm (w : Nat) (v : Word) : Except DecodeError Word := if isWord w v then .ok v else .error (.immediateTooWide v)

/-- Format RRR of R83: rd, rs1, rs2. -/
def decodeRRR (n : Nat) (r : Record) (mk : Nat → Nat → Nat → Instr) : Except DecodeError Instr := do
  let rd ← takeReg n .rd r.rd
  let rs1 ← takeReg n .rs1 r.rs1
  let rs2 ← takeReg n .rs2 r.rs2
  return mk rd rs1 rs2

/-- Format RRI of R83: rd, rs1, imm. -/
def decodeRRI (n w : Nat) (r : Record) (mk : Nat → Nat → Word → Instr) : Except DecodeError Instr := do
  let rd ← takeReg n .rd r.rd
  let rs1 ← takeReg n .rs1 r.rs1
  let imm ← takeImm w r.imm
  return mk rd rs1 imm

/-- Format RI of R83: rd, imm. -/
def decodeRI (n w : Nat) (r : Record) (mk : Nat → Word → Instr) : Except DecodeError Instr := do
  let rd ← takeReg n .rd r.rd
  let imm ← takeImm w r.imm
  return mk rd imm

/-- Format SRI of R83: rs1 (store data), rs2 (base), imm. -/
def decodeSRI (n w : Nat) (r : Record) (mk : Nat → Nat → Word → Instr) : Except DecodeError Instr := do
  let rs1 ← takeReg n .rs1 r.rs1
  let rs2 ← takeReg n .rs2 r.rs2
  let imm ← takeImm w r.imm
  return mk rs1 rs2 imm

/-- Format SRR of R83: rs1 (store data), rs2 (base), rs3 (index). -/
def decodeSRR (n : Nat) (r : Record) (mk : Nat → Nat → Nat → Instr) : Except DecodeError Instr := do
  let rs1 ← takeReg n .rs1 r.rs1
  let rs2 ← takeReg n .rs2 r.rs2
  let rs3 ← takeReg n .rs3 r.rs3
  return mk rs1 rs2 rs3

/-- Format JI of R83: rs1, imm. -/
def decodeJI (n w : Nat) (r : Record) (mk : Nat → Word → Instr) : Except DecodeError Instr := do
  let rs1 ← takeReg n .rs1 r.rs1
  let imm ← takeImm w r.imm
  return mk rs1 imm

/-- Format I of R83: imm. -/
def decodeI (w : Nat) (r : Record) (mk : Word → Instr) : Except DecodeError Instr := do
  let imm ← takeImm w r.imm
  return mk imm

/-- The instruction a record spells, for a machine of `n` = N_ARCH logical registers and `w` = XLEN bits (R82, R83, R87). Fields
that the opcode's format does not name are ignored, whatever they hold (R83). -/
def decode (n w : Nat) (r : Record) : Except DecodeError Instr :=
  match r.opcode.toNat with
  | 0 => decodeRRR n r .add
  | 1 => decodeRRR n r .sub
  | 2 => decodeRRI n w r .addl
  | 3 => decodeRRI n w r .subl
  | 4 => decodeRRR n r .and
  | 5 => decodeRRR n r .or
  | 6 => decodeRRR n r .xor
  | 7 => decodeRRR n r .mul
  | 8 => decodeRRR n r .cmp
  | 9 => decodeRI n w r .movc
  | 10 => decodeRRI n w r .load
  | 11 => decodeSRI n w r .store
  | 12 => decodeRRR n r .ldr
  | 13 => decodeSRR n r .str
  | 14 => decodeJI n w r .jump
  | 15 => decodeRRI n w r .jal
  | 16 => decodeI w r .bz
  | 17 => decodeI w r .bnz
  | 18 => .ok .nop
  | 19 => .ok .halt
  | _ => .error (.unknownOpcode r.opcode)

/-- The record of a key word and its immediate (R91): opcode key[4:0], rd key[8:5], rs1 key[12:9], rs2 key[16:13],
rs3 key[20:17]. In the packed form no field is absent. -/
def unpackKey (key : Nat) (imm : Word) : Record :=
  { opcode := BitVec.ofNat 5 (key % 32)
    rd := some (key / 32 % 16)
    rs1 := some (key / 512 % 16)
    rs2 := some (key / 8192 % 16)
    rs3 := some (key / 131072 % 16)
    imm := imm }

/-- The instruction of a key image and its immediate: bits 20..0 are R91's key word, and an image with a higher bit set is
refused (log 6). -/
def decodeKey (n w key : Nat) (imm : Word) : Except DecodeError Instr :=
  if key < 2097152 then decode n w (unpackKey key imm) else .error .strayKeyBits

/-- The fixed interface: the instruction whose table bits are `w`, numbered as spec/opcode_table.json numbers them. The
image of the default machine has the key in bits 31..0 and the immediate in bits 63..32 (log 6); every bit from `nbits` up is
0. -/
def decodeTableWord (nbits w : Nat) : Option Instr :=
  match decodeKey Params.default.nArch Params.default.xlen (w % 2 ^ nbits % 4294967296)
      (w % 2 ^ nbits / 4294967296 % 4294967296) with
  | .ok i => some i
  | .error _ => none

/-- A key word from its five fields (R91): `opcode | rd << 5 | rs1 << 9 | rs2 << 13 | rs3 << 17`. -/
def packKey (op rd rs1 rs2 rs3 : Nat) : Nat := op + 32 * rd + 512 * rs1 + 8192 * rs2 + 131072 * rs3

/-- The key word of an instruction (R82, R91). An unused register field is packed as 0. -/
def encodeKey : Instr → Nat
  | .add rd rs1 rs2 => packKey 0 rd rs1 rs2 0
  | .sub rd rs1 rs2 => packKey 1 rd rs1 rs2 0
  | .addl rd rs1 _ => packKey 2 rd rs1 0 0
  | .subl rd rs1 _ => packKey 3 rd rs1 0 0
  | .and rd rs1 rs2 => packKey 4 rd rs1 rs2 0
  | .or rd rs1 rs2 => packKey 5 rd rs1 rs2 0
  | .xor rd rs1 rs2 => packKey 6 rd rs1 rs2 0
  | .mul rd rs1 rs2 => packKey 7 rd rs1 rs2 0
  | .cmp rd rs1 rs2 => packKey 8 rd rs1 rs2 0
  | .movc rd _ => packKey 9 rd 0 0 0
  | .load rd rs1 _ => packKey 10 rd rs1 0 0
  | .store rs1 rs2 _ => packKey 11 0 rs1 rs2 0
  | .ldr rd rs1 rs2 => packKey 12 rd rs1 rs2 0
  | .str rs1 rs2 rs3 => packKey 13 0 rs1 rs2 rs3
  | .jump rs1 _ => packKey 14 0 rs1 0 0
  | .jal rd rs1 _ => packKey 15 rd rs1 0 0
  | .bz _ => packKey 16 0 0 0 0
  | .bnz _ => packKey 17 0 0 0 0
  | .nop => packKey 18 0 0 0 0
  | .halt => packKey 19 0 0 0 0

/-- The immediate that stands beside the key word: the instruction's own, or 0 where its format has none (R83, R91). -/
def encodeImm : Instr → Word
  | .addl _ _ imm => imm
  | .subl _ _ imm => imm
  | .movc _ imm => imm
  | .load _ _ imm => imm
  | .store _ _ imm => imm
  | .jump _ imm => imm
  | .jal _ _ imm => imm
  | .bz imm => imm
  | .bnz imm => imm
  | .add _ _ _ => 0
  | .sub _ _ _ => 0
  | .and _ _ _ => 0
  | .or _ _ _ => 0
  | .xor _ _ _ => 0
  | .mul _ _ _ => 0
  | .cmp _ _ _ => 0
  | .ldr _ _ _ => 0
  | .str _ _ _ => 0
  | .nop => 0
  | .halt => 0

/-- The record of an instruction: the fields its format names, the others absent, and the immediate 0 where it names none
(R80, R82, R83). -/
def encodeRecord : Instr → Record
  | .add rd rs1 rs2 => ⟨0, some rd, some rs1, some rs2, none, 0⟩
  | .sub rd rs1 rs2 => ⟨1, some rd, some rs1, some rs2, none, 0⟩
  | .addl rd rs1 imm => ⟨2, some rd, some rs1, none, none, imm⟩
  | .subl rd rs1 imm => ⟨3, some rd, some rs1, none, none, imm⟩
  | .and rd rs1 rs2 => ⟨4, some rd, some rs1, some rs2, none, 0⟩
  | .or rd rs1 rs2 => ⟨5, some rd, some rs1, some rs2, none, 0⟩
  | .xor rd rs1 rs2 => ⟨6, some rd, some rs1, some rs2, none, 0⟩
  | .mul rd rs1 rs2 => ⟨7, some rd, some rs1, some rs2, none, 0⟩
  | .cmp rd rs1 rs2 => ⟨8, some rd, some rs1, some rs2, none, 0⟩
  | .movc rd imm => ⟨9, some rd, none, none, none, imm⟩
  | .load rd rs1 imm => ⟨10, some rd, some rs1, none, none, imm⟩
  | .store rs1 rs2 imm => ⟨11, none, some rs1, some rs2, none, imm⟩
  | .ldr rd rs1 rs2 => ⟨12, some rd, some rs1, some rs2, none, 0⟩
  | .str rs1 rs2 rs3 => ⟨13, none, some rs1, some rs2, some rs3, 0⟩
  | .jump rs1 imm => ⟨14, none, some rs1, none, none, imm⟩
  | .jal rd rs1 imm => ⟨15, some rd, some rs1, none, none, imm⟩
  | .bz imm => ⟨16, none, none, none, none, imm⟩
  | .bnz imm => ⟨17, none, none, none, none, imm⟩
  | .nop => ⟨18, none, none, none, none, 0⟩
  | .halt => ⟨19, none, none, none, none, 0⟩

/-- The words of an instruction: its key word and its immediate (R91). -/
def encode (i : Instr) : Nat × Word := (encodeKey i, encodeImm i)

end Sys2Proof
end

