-- ==== Sys2Proof/Machine/State.lean ====
section
/-! DEFINITION. The state of the core (10_state.md), the reasons a step can stop, and the state after reset (70_reset_and_hazards.md R291).
State is plain data. The sizes of R9 are the lengths of the lists, and its other variable parameters are fields (log 8). -/

namespace Sys2Proof.Machine

/-- One slot of the physical register file (R23). -/
structure PhysReg where
  value : Word
  hasResult : Bool
  busy : Bool
  deriving DecidableEq, Repr

/-- The functional-unit classes (R17, R88). -/
inductive FuClass where
  | int | mul | branch | mem
  deriving DecidableEq, Repr

/-- The ROB entry's exception code: a placeholder, always NONE (R39, R270). -/
inductive ExcCode where
  | none
  deriving DecidableEq, Repr

/-- What a front-end latch holds: an instruction and its address (R37). -/
structure Fetched where
  pc : Word
  insn : Instr
  deriving DecidableEq, Repr

/-- An occupied issue-queue slot (R38): one dispatched instruction with its renamed operands. `insn` holds the static
instruction, from which op, imm, rd and cls are read (log 4). A source or destination that is `none` is the spec's -1. -/
structure IqEntry where
  insn : Instr
  ps1 : Option Nat
  ps2 : Option Nat
  ps3 : Option Nat
  pd : Option Nat
  rob : Nat
  deriving DecidableEq, Repr

/-- The micro-op in L.MUL2 and L.MUL3: an entry and the product (R41). -/
structure MulOp where
  entry : IqEntry
  prod : Word
  deriving DecidableEq, Repr

/-- The micro-op in L.BRU2: an entry, the target and the link (R41). -/
structure BruOp where
  entry : IqEntry
  target : Word
  link : Word
  deriving DecidableEq, Repr

/-- The micro-op in a memory latch after address generation: an entry, the effective address and the store data (R41).
A load has no data; its field is 0 and no stage reads it (log 14). -/
structure MemOp where
  entry : IqEntry
  ea : Word
  data : Word
  deriving DecidableEq, Repr

/-- An occupied reorder-buffer entry (R39). `insn` holds op and rd (log 4). -/
structure RobEntry where
  pc : Word
  insn : Instr
  ps1 : Option Nat
  ps2 : Option Nat
  ps3 : Option Nat
  pd : Option Nat
  result : Word
  ea : Word
  taken : Bool
  resultValid : Bool
  memReady : Bool
  exc : ExcCode
  deriving DecidableEq, Repr

/-- A recorded model fault, kind and info (R36, R271). -/
inductive FaultRecord where
  /-- Dispatch of an instruction at `pc` whose source field names the unmapped logical register `r` (R109). -/
  | unmappedSource (pc : Word) (r : Nat)
  /-- A load's access stage, or a store's commit, with `ea` outside the data memory (R62, R222, R241). -/
  | dmemRange (ea : Word)
  deriving DecidableEq, Repr

/-- The stages whose work depends on the instruction: `exec` says what one of them does with it. The stages of R101 that
treat every instruction alike (MUL2, the memory pass-through, issue, fetch) are in Machine/Stages.lean. -/
inductive Stage where
  | dispatch | int | mul1 | mul3 | bru1 | bru2 | mem1 | access | commit
  deriving DecidableEq, Repr

/-- What a machine is at a cycle boundary: R103's alternatives "final (halted)" and "faulted", and neither of them (R274). -/
inductive Status where
  /-- It takes a next cycle. -/
  | running
  /-- A HALT has retired and no fault is recorded: the state is final, the run is completed (R103, R295). -/
  | halted
  /-- A fault is recorded. A faulted machine is not halted, and its run is never completed (R271, log 9). -/
  | faulted (f : FaultRecord)
  deriving DecidableEq, Repr

/-- Why a step stops without a next state. -/
inductive Fault where
  /-- Raised by `step` in a halted machine: it takes no further cycle (R35, R103). Safe (log 2). -/
  | halted
  /-- Raised by `step` in a faulted machine: it takes no further cycle (R36, R103). Safe (log 1). -/
  | faulted (f : FaultRecord)
  deriving DecidableEq, Repr

/-- Why an instruction has no meaning. -/
inductive Refusal where
  /-- Raised by an arm of `exec` whose instruction has no meaning yet. Safe. No arm raises it. -/
  | notModelled (mnemonic : String)
  /-- Raised by a meaning that is asked for a stage the instruction never passes (R88), which happens only in a state no
  run reaches: a micro-op in a latch of another unit. Safe (log 12). -/
  | notAtThisStage
  deriving DecidableEq, Repr

/-- The state of the core (10_state.md). -/
structure State where
  /-- PRF (R23). -/
  prf : List PhysReg
  /-- The speculative rename table (R26); `none` is UNMAPPED. -/
  srat : List (Option Nat)
  /-- The retirement rename table (R27). -/
  rrat : List (Option Nat)
  /-- The fetch program counter (R29). -/
  pc : Word
  /-- The zero flag Z (R31). -/
  z : Bool
  /-- A control-flow instruction is dispatched and not resolved (R33). -/
  branchPending : Bool
  /-- Fetch was redirected or released in this cycle (R34). -/
  redirect : Bool
  /-- A HALT has retired: set at its commit, cleared by reset alone (R35, R248). -/
  halted : Bool
  /-- A HALT retired in this cycle (R35). -/
  haltRetired : Bool
  /-- The recorded model fault (R36). -/
  fault : Option FaultRecord
  /-- L.F, the fetch latch (R37). -/
  lf : Option Fetched
  /-- L.D, the decode latch (R37). -/
  ld : Option Fetched
  /-- The issue queue (R38); `none` is a free slot. -/
  iq : List (Option IqEntry)
  /-- The reorder buffer (R39); `none` is an empty entry. -/
  rob : List (Option RobEntry)
  /-- The index of the oldest entry (R39). -/
  head : Nat
  /-- The index the next entry is allocated at (R39). -/
  tail : Nat
  /-- The number of occupied entries (R39). -/
  count : Nat
  /-- The instruction store (R40). -/
  imem : List Instr
  /-- L.INT (R41). -/
  lInt : Option IqEntry
  /-- L.MUL1 (R41). -/
  lMul1 : Option IqEntry
  /-- L.MUL2 (R41). -/
  lMul2 : Option MulOp
  /-- L.MUL3 (R41). -/
  lMul3 : Option MulOp
  /-- L.BRU1 (R41). -/
  lBru1 : Option IqEntry
  /-- L.BRU2 (R41). -/
  lBru2 : Option BruOp
  /-- L.MEM1 (R41). -/
  lMem1 : Option IqEntry
  /-- L.MEM2 .. L.MEM<L_MEM-1>, in this order (R41, R221); empty at the default L_MEM = 2. -/
  memPass : List (Option MemOp)
  /-- L.MEM<L_MEM>, the access stage's latch (R41, R222). -/
  lAcc : Option MemOp
  /-- DMem (R42) as (address, word) pairs: addresses strictly rising, no word 0, an unlisted cell reads 0 (log 5). -/
  dmem : List (Nat × Word)
  /-- XLEN, a launch parameter (R9): every word of the state is one of this width. -/
  xlen : Nat
  /-- INSN_BYTES, a launch parameter (R9). -/
  insnBytes : Nat
  /-- BASE_PC, a launch parameter (R9). -/
  basePc : Word
  /-- DMEM_SIZE, a launch parameter (R9). -/
  dmemSize : Nat
  /-- The model's own: the stage whose evaluation is asked of `exec`; `dispatch` at every cycle boundary (log 3). -/
  stage : Stage
  deriving DecidableEq, Repr

/-- What a step, a stage or a meaning answers. -/
abbrev Result := Host.Outcome State Fault Refusal

/-- The state after reset of a machine with the parameters `p` (R290, R291). The instruction store is not reset but given
at launch (R40); here it is empty (log 7). -/
def State.resetWith (p : Params) : State where
  prf := List.replicate p.nPhys { value := 0, hasResult := false, busy := false }
  srat := List.replicate p.nArch none
  rrat := List.replicate p.nArch none
  pc := p.basePc
  z := p.zReset
  branchPending := false
  redirect := false
  halted := false
  haltRetired := false
  fault := none
  lf := none
  ld := none
  iq := List.replicate p.nIq none
  rob := List.replicate p.nRob none
  head := 0
  tail := 0
  count := 0
  imem := []
  lInt := none
  lMul1 := none
  lMul2 := none
  lMul3 := none
  lBru1 := none
  lBru2 := none
  lMem1 := none
  memPass := List.replicate (p.lMem - 2) none
  lAcc := none
  dmem := []
  xlen := p.xlen
  insnBytes := p.insnBytes
  basePc := p.basePc
  dmemSize := p.dmemSize
  stage := .dispatch

/-- The state right after reset, at the default parameters (R9, R291). -/
def State.reset : State := State.resetWith Params.default

end Sys2Proof.Machine
end

