-- ==== Sys2Proof/Machine/Flags.lean ====
section
/-! DEFINITION. The one condition flag, Z (R31, R160): how it is computed, and how a branch reads it. -/

namespace Sys2Proof.Machine

/-- The zero flag of a result: 1 iff the result word is 0 (R31, R160). -/
def zeroFlag (r : Word) : Bool := decide (r = 0)

/-- Z after an integer instruction: computed from the result where the opcode is a flag setter (ADD, SUB, ADDL, SUBL, CMP),
unchanged otherwise (R31, R160). -/
def flagAfter (setsZ : Bool) (r : Word) (z : Bool) : Bool := if setsZ then zeroFlag r else z

end Sys2Proof.Machine
end

