-- ==== Sys2Proof/Machine/Arith.lean ====
section
/-! DEFINITION. The arithmetic of R11 on words of `w` = XLEN bits: computed exactly on the signed readings, then wrapped. -/

namespace Sys2Proof

/-- `wrap(n)`: the `w`-bit word whose unsigned value is `n mod 2^w` (R11). -/
def wrap (w : Nat) (n : Int) : Word := (n % ((2 ^ w : Nat) : Int)).toNat

/-- `s(v)`: the word read as a two's-complement signed integer (R11). -/
def signed (w : Nat) (v : Word) : Int := if v < 2 ^ (w - 1) then (v : Int) else (v : Int) - ((2 ^ w : Nat) : Int)

/-- `a + b` on words (R11). -/
def wordAdd (w : Nat) (a b : Word) : Word := wrap w (signed w a + signed w b)

/-- `a - b` on words (R11). -/
def wordSub (w : Nat) (a b : Word) : Word := wrap w (signed w a - signed w b)

/-- `a * b` on words: the low XLEN bits of the product (R11). -/
def wordMul (w : Nat) (a b : Word) : Word := wrap w (signed w a * signed w b)

/-- `a & b` (R11). -/
def wordAnd (a b : Word) : Word := a &&& b

/-- `a | b` (R11). -/
def wordOr (a b : Word) : Word := a ||| b

/-- The exclusive OR of R11. -/
def wordXor (a b : Word) : Word := a ^^^ b

end Sys2Proof
end

