-- ==== Sys2Proof/Machine/Operands.lean ====
section
/-! DEFINITION. The operand forms: the source roles and destination of each opcode (R84), its decode attributes (R88, R89), and the
reading of operand values from the physical register file (R121). -/

namespace Sys2Proof

/-- The logical source registers in role order: the first is renamed into ps1, the second into ps2, the third into ps3 (R84). -/
def Instr.srcs : Instr → List Nat
  | .add _ rs1 rs2 => [rs1, rs2]
  | .sub _ rs1 rs2 => [rs1, rs2]
  | .addl _ rs1 _ => [rs1]
  | .subl _ rs1 _ => [rs1]
  | .and _ rs1 rs2 => [rs1, rs2]
  | .or _ rs1 rs2 => [rs1, rs2]
  | .xor _ rs1 rs2 => [rs1, rs2]
  | .mul _ rs1 rs2 => [rs1, rs2]
  | .cmp _ rs1 rs2 => [rs1, rs2]
  | .movc _ _ => []
  | .load _ rs1 _ => [rs1]
  | .store rs1 rs2 _ => [rs1, rs2]
  | .ldr _ rs1 rs2 => [rs1, rs2]
  | .str rs1 rs2 rs3 => [rs1, rs2, rs3]
  | .jump rs1 _ => [rs1]
  | .jal _ rs1 _ => [rs1]
  | .bz _ => []
  | .bnz _ => []
  | .nop => []
  | .halt => []

/-- The logical destination register, of the producer opcodes only (R84, R89): the spec's `rd`, with `none` for -1. -/
def Instr.dst : Instr → Option Nat
  | .add rd _ _ => some rd
  | .sub rd _ _ => some rd
  | .addl rd _ _ => some rd
  | .subl rd _ _ => some rd
  | .and rd _ _ => some rd
  | .or rd _ _ => some rd
  | .xor rd _ _ => some rd
  | .mul rd _ _ => some rd
  | .cmp rd _ _ => some rd
  | .movc rd _ => some rd
  | .load rd _ _ => some rd
  | .store _ _ _ => none
  | .ldr rd _ _ => some rd
  | .str _ _ _ => none
  | .jump _ _ => none
  | .jal rd _ _ => some rd
  | .bz _ => none
  | .bnz _ => none
  | .nop => none
  | .halt => none

/-- The functional-unit class, `none` for the opcodes no unit sees (R88). -/
def Instr.cls : Instr → Option Machine.FuClass
  | .add _ _ _ => some .int
  | .sub _ _ _ => some .int
  | .addl _ _ _ => some .int
  | .subl _ _ _ => some .int
  | .and _ _ _ => some .int
  | .or _ _ _ => some .int
  | .xor _ _ _ => some .int
  | .mul _ _ _ => some .mul
  | .cmp _ _ _ => some .int
  | .movc _ _ => some .int
  | .load _ _ _ => some .mem
  | .store _ _ _ => some .mem
  | .ldr _ _ _ => some .mem
  | .str _ _ _ => some .mem
  | .jump _ _ => some .branch
  | .jal _ _ _ => some .branch
  | .bz _ => some .branch
  | .bnz _ => some .branch
  | .nop => none
  | .halt => none

/-- A producer allocates a physical destination (R17, R89): it has a logical one. -/
def Instr.producer (i : Instr) : Bool := i.dst.isSome

/-- A control-flow instruction: JUMP, JAL, BZ or BNZ (R17, R88). -/
def Instr.ctl (i : Instr) : Bool := i.cls == some .branch

/-- A memory instruction: LOAD, STORE, LDR or STR (R88). -/
def Instr.isMem (i : Instr) : Bool := i.cls == some .mem

/-- The ROB entry of NOP and HALT is valid at dispatch; no unit will validate it (R113, R118, R119). -/
def Instr.validAtDispatch (i : Instr) : Bool := i.cls == none

namespace Machine

/-- The logical destination of a queued or in-flight micro-op, the spec's `rd` field of R38. -/
def IqEntry.rd (u : IqEntry) : Option Nat := u.insn.dst

/-- The class of a queued or in-flight micro-op, the spec's `cls` field of R38. -/
def IqEntry.cls (u : IqEntry) : Option FuClass := u.insn.cls

/-- The logical destination of a ROB entry, the spec's `rd` field of R39. -/
def RobEntry.rd (e : RobEntry) : Option Nat := e.insn.dst

/-- `PRF[p].value` (R12). A slot outside the file reads 0, in a state no run reaches (log 13). -/
def State.physValue (s : State) (p : Nat) : Word :=
  match s.prf[p]? with
  | some r => r.value
  | none => 0

/-- `PRF[p].has_result` (R12). A slot outside the file has none (log 13). -/
def State.physHasResult (s : State) (p : Nat) : Bool :=
  match s.prf[p]? with
  | some r => r.hasResult
  | none => false

/-- `V(psj)` (R14), and 0 for a source that is not used, as R160 gives it. -/
def State.operand (s : State) : Option Nat → Word
  | some p => s.physValue p
  | none => 0

/-- A source is available: not used, or its slot holds a result (R140). -/
def State.sourceReady (s : State) : Option Nat → Bool
  | some p => s.physHasResult p
  | none => true

/-- A queued micro-op is ready iff every source it uses has a result (R140, R141). -/
def State.ready (s : State) (u : IqEntry) : Bool :=
  s.sourceReady u.ps1 && s.sourceReady u.ps2 && s.sourceReady u.ps3

/-- The address of the instruction after the one at `pc`, which is also JAL's link: wrap(pc + INSN_BYTES) (R30, R200, D43). -/
def State.nextPc (s : State) (pc : Word) : Word := wrap s.xlen ((pc : Int) + (s.insnBytes : Int))

/-- Sources are renamed through the speculative table in role order; the first unmapped one is named (R109). -/
def renameSources (srat : List (Option Nat)) : List Nat → Except Nat (List Nat)
  | [] => .ok []
  | r :: rs =>
    match srat[r]?.join with
    | none => .error r
    | some p =>
      match renameSources srat rs with
      | .error q => .error q
      | .ok ps => .ok (p :: ps)

end Machine

end Sys2Proof
end

