-- ==== Sys2Proof/Machine/Ops.lean ====
section
/-! DEFINITION. The named operations over the state: data memory, the physical registers and rename tables, the reorder buffer, the
model fault, the squash and the ROB reset, and the work of each stage that the instructions share. The core has no exception entry
and no return from one (R270, R276, R277); `raiseFault` is the one shared operation of the model faults (R271). -/

namespace Sys2Proof.Machine

/-! ### Data memory (20_memory.md) -/

/-- The word in cell `a`; an unlisted cell reads 0, the reset contents (R42, D46, log 5). -/
def Mem.read : List (Nat × Word) → Nat → Word
  | [], _ => 0
  | (b, w) :: m, a => if a = b then w else Mem.read m a

/-- Put a cell in front, unless it would hold what an unlisted cell reads as. -/
def Mem.cons (a : Nat) (v : Word) (m : List (Nat × Word)) : List (Nat × Word) :=
  if v = 0 then m else (a, v) :: m

/-- Store word `v` into cell `a`, keeping the canonical form (R13, log 5). -/
def Mem.write : List (Nat × Word) → Nat → Word → List (Nat × Word)
  | [], a, v => Mem.cons a v []
  | (b, w) :: m, a, v =>
    if a < b then Mem.cons a v ((b, w) :: m)
    else if a = b then Mem.cons a v m
    else (b, w) :: Mem.write m a v

/-- The canonical form of the memory list: addresses strictly rising, and no cell that holds what an unlisted cell reads as. -/
abbrev Mem.wf (m : List (Nat × Word)) : Prop :=
  m.Pairwise (fun c d => c.1 < d.1) ∧ ∀ c ∈ m, c.2 ≠ 0

/-- An effective address names a cell iff, read as a signed word, it is in 0 .. DMEM_SIZE - 1 (R62). -/
def State.inRange (s : State) (ea : Word) : Bool :=
  decide (0 ≤ signed s.xlen ea) && decide (signed s.xlen ea < (s.dmemSize : Int))

/-- The index of the cell that an in-range effective address names (R61). -/
def State.cellOf (s : State) (ea : Word) : Nat := (signed s.xlen ea).toNat

/-- `MemRead(ea, 1)` (R13, R66). -/
def State.memRead (s : State) (ea : Word) : Word := Mem.read s.dmem (s.cellOf ea)

/-- `MemWrite(ea, 1, v)` (R13, R66). -/
def State.memWrite (s : State) (ea v : Word) : State := { s with dmem := Mem.write s.dmem (s.cellOf ea) v }

/-! ### Model faults (60_exceptions.md) -/

/-- `raise Fault(kind, info)`: the fault is recorded and everything else stays as it is (R103, R271). The cycle ends with the
stage that raises it (R103), and the machine is then faulted and not halted (`State.status`). -/
def State.raiseFault (s : State) (f : FaultRecord) : State := { s with fault := some f }

/-- Whether the machine is running, halted or faulted (R103). A machine with a recorded fault is faulted and not halted, also
where a HALT retired earlier in the cycle of the fault, whose bit `halted` R35 keeps (R271, log 9). -/
def State.status (s : State) : Status :=
  match s.fault with
  | some f => .faulted f
  | none => if s.halted then .halted else .running

/-! ### Physical registers and rename tables -/

/-- Clear the busy bit of a slot; its value and has_result stay (R25). No slot: nothing. -/
def freeSlot (prf : List PhysReg) : Option Nat → List PhysReg
  | some p => prf.modify p (fun r => { r with busy := false })
  | none => prf

/-- Allocate a slot: busy, no result, the value unchanged (R112). -/
def claimSlot (prf : List PhysReg) (p : Nat) : List PhysReg :=
  prf.modify p (fun r => { r with busy := true, hasResult := false })

/-- Install a result: value and has_result (R243). -/
def installResult (prf : List PhysReg) (p : Nat) (v : Word) : List PhysReg :=
  prf.modify p (fun r => { r with value := v, hasResult := true })

/-- The lowest free physical slot (R112). -/
def State.freePhys (s : State) : Option Nat := s.prf.findIdx? (fun r => !r.busy)

/-- The lowest free issue-queue slot (R114). -/
def State.freeIq (s : State) : Option Nat := s.iq.findIdx? (fun e => e.isNone)

/-- The mapping of logical register `r` in the retirement table (R21); UNMAPPED outside the table. -/
def State.retired (s : State) (r : Nat) : Option Nat := s.rrat[r]?.join

/-- The slot Retire frees: the superseded retirement mapping, unless there is none or it is `pd` itself (R243, C7). -/
def State.superseded (s : State) (rd : Nat) (pd : Nat) : Option Nat :=
  if s.retired rd = some pd then none else s.retired rd

/-- `Retire(v, rd, pd)` (R243). -/
def State.retire (s : State) (v : Word) (rd : Nat) (pd : Nat) : State :=
  { s with
    prf := installResult (freeSlot s.prf (s.superseded rd pd)) pd v
    rrat := s.rrat.set rd (some pd) }

/-- Destination renaming (R112): the slot is claimed and the speculative table names it. -/
def State.renameDest (s : State) (rd : Nat) (pd : Nat) : State :=
  { s with prf := claimSlot s.prf pd, srat := s.srat.set rd (some pd) }

/-- The HALT resynchronization: SRAT is reloaded from RRAT (R251). -/
def State.resync (s : State) : State := { s with srat := s.rrat }

/-! ### The reorder buffer (46_commit.md) -/

/-- Entry `i` of the ROB, if it is occupied. -/
def State.robAt (s : State) (i : Nat) : Option RobEntry := s.rob[i]?.join

/-- The entry at `head`, if the ROB is not empty (R39, R240). -/
def State.headEntry (s : State) : Option RobEntry := if s.count = 0 then none else s.robAt s.head

/-- Rewrite fields of ROB entry `i`; an empty entry stays empty. -/
def State.robUpdate (s : State) (i : Nat) (f : RobEntry → RobEntry) : State :=
  { s with rob := s.rob.modify i (Option.map f) }

/-- `Pop` (R240). -/
def State.pop (s : State) : State :=
  { s with rob := s.rob.set s.head none, head := (s.head + 1) % s.rob.length, count := s.count - 1 }

/-- Allocate the ROB entry at `tail` (R113). -/
def State.push (s : State) (e : RobEntry) : State :=
  { s with rob := s.rob.set s.tail (some e), tail := (s.tail + 1) % s.rob.length, count := s.count + 1 }

/-- The ROB index of the `j`-th oldest entry (R39). -/
def State.robIndex (s : State) (j : Nat) : Nat := (s.head + j) % s.rob.length

/-- The entries between `head` and `tail`, oldest first (R39, R44). -/
def State.inFlight (s : State) : List RobEntry :=
  (List.range s.count).filterMap (fun j => s.robAt (s.robIndex j))

/-- Free the destination of every entry of the list that has one (R249). -/
def freeDests (prf : List PhysReg) (es : List RobEntry) : List PhysReg :=
  es.foldl (fun prf e => freeSlot prf e.pd) prf

/-- `ROBReset(target)` (R249). -/
def State.robReset (s : State) (target : Word) : State :=
  { s with
    prf := freeDests s.prf s.inFlight
    rob := s.rob.map (fun _ => none)
    head := 0
    tail := 0
    count := 0
    srat := s.rrat
    iq := s.iq.map (fun _ => none)
    lInt := none
    lMul1 := none
    lMul2 := none
    lMul3 := none
    lBru1 := none
    lBru2 := none
    lMem1 := none
    memPass := s.memPass.map (fun _ => none)
    lAcc := none
    lf := none
    ld := none
    pc := target
    branchPending := false
    redirect := true }

/-- `Squash(target)` (R202): the front-end latches, every issue-queue slot and the program counter; nothing else. -/
def State.squash (s : State) (target : Word) : State :=
  { s with lf := none, ld := none, iq := s.iq.map (fun _ => none), pc := target }

/-! ### Dispatch (40_cycle_fetch_dispatch.md R108 to R119) -/

/-- The memory bypass is taken (R115): a memory instruction, every renamed source has a result, and L.MEM1 is empty. -/
def State.bypasses (s : State) (i : Instr) (ps : List Nat) : Bool :=
  i.isMem && ps.all s.physHasResult && s.lMem1.isNone

/-- An issue-queue slot is needed (R110, R115). -/
def State.needsIq (s : State) (i : Instr) (ps : List Nat) : Bool := i.cls.isSome && !s.bypasses i ps

/-- A resource is missing, so dispatch stalls (R110, R111): the ROB is full, or a physical register or an issue-queue slot is
needed and none is free. -/
def State.stalls (s : State) (i : Instr) (ps : List Nat) : Bool :=
  decide (s.rob.length ≤ s.count) || (i.producer && s.freePhys.isNone) || (s.needsIq i ps && s.freeIq.isNone)

/-- The physical destination a dispatching instruction is given: the lowest free slot for a producer, none otherwise (R112). -/
def State.destFor (s : State) (i : Instr) : Option Nat := if i.producer then s.freePhys else none

/-- The micro-op of a dispatching instruction (R114, R115). -/
def State.microOp (s : State) (i : Instr) (ps : List Nat) : IqEntry :=
  { insn := i, ps1 := ps[0]?, ps2 := ps[1]?, ps3 := ps[2]?, pd := s.destFor i, rob := s.tail }

/-- The ROB entry of a dispatching instruction at address `pc` (R113). -/
def State.robEntryFor (s : State) (pc : Word) (i : Instr) (ps : List Nat) : RobEntry :=
  { pc := pc, insn := i, ps1 := ps[0]?, ps2 := ps[1]?, ps3 := ps[2]?, pd := s.destFor i
    result := 0, ea := 0, taken := false
    resultValid := i.validAtDispatch
    memReady := s.bypasses i ps
    exc := .none }

/-- Destination renaming of a dispatching instruction, if it has a destination (R112). -/
def State.claimDest (s : State) (i : Instr) : State :=
  match i.dst, s.destFor i with
  | some rd, some pd => s.renameDest rd pd
  | _, _ => s

/-- Where the micro-op waits: L.MEM1 by the bypass, the lowest free issue-queue slot, or nowhere (R110, R114, R115). -/
def State.enqueue (s : State) (i : Instr) (ps : List Nat) (u : IqEntry) : State :=
  if s.bypasses i ps then { s with lMem1 := some u }
  else if i.cls.isSome then
    match s.freeIq with
    | some k => { s with iq := s.iq.set k (some u) }
    | none => s
  else s

/-- A successful dispatch (R112 to R117). The micro-op and the ROB entry are made from the state before any allocation. -/
def State.allocate (s : State) (pc : Word) (i : Instr) (ps : List Nat) : State :=
  let t := ((s.enqueue i ps (s.microOp i ps)).claimDest i).push (s.robEntryFor pc i ps)
  { t with branchPending := i.ctl || s.branchPending, ld := none }

/-- The dispatch stage for instruction `i` in L.D: sources (R109), then resources (R111), then the allocation. With L.D empty
it does nothing (R108). -/
def dispatch (i : Instr) (s : State) : Result :=
  match s.ld with
  | none => .next s
  | some d =>
    match renameSources s.srat i.srcs with
    | .error r => .next (s.raiseFault (.unmappedSource d.pc r))
    | .ok ps => if s.stalls i ps then .next s else .next (s.allocate d.pc i ps)

/-! ### The functional units' stages (42_integer.md to 45_memory_unit.md) -/

/-- A unit writes its result into the ROB entry and marks it valid. -/
def RobEntry.finish (e : RobEntry) (result : Word) : RobEntry := { e with result := result, resultValid := true }

/-- The integer stage (R160) with result function `f` of the two source values; `setsZ` says that the opcode is a flag setter. -/
def intStage (f : Word → Word → Word) (setsZ : Bool) (s : State) : Result :=
  match s.lInt with
  | none => .next s
  | some u =>
    let r := f (s.operand u.ps1) (s.operand u.ps2)
    let t := s.robUpdate u.rob (fun e => e.finish r)
    .next { t with z := flagAfter setsZ r s.z, lInt := none }

/-- MUL1 (R190) with product function `f`. -/
def mul1Stage (f : Word → Word → Word) (s : State) : Result :=
  match s.lMul1 with
  | none => .next s
  | some u =>
    .next { s with lMul2 := some { entry := u, prod := f (s.operand u.ps1) (s.operand u.ps2) }, lMul1 := none }

/-- MUL3 (R192). -/
def mul3Stage (s : State) : Result :=
  match s.lMul3 with
  | none => .next s
  | some m =>
    let t := s.robUpdate m.entry.rob (fun e => e.finish m.prod)
    .next { t with lMul3 := none }

/-- The address of the instruction a micro-op belongs to, read from its ROB entry (R38); 0 if the entry is empty, in a state no
run reaches (log 13). -/
def State.insnPc (s : State) (u : IqEntry) : Word :=
  match s.robAt u.rob with
  | some e => e.pc
  | none => 0

/-- BRU1 (R200): `f base pc` is the target and the link, from the value of the first source and the instruction's address. -/
def bru1Stage (f : Word → Word → Word × Word) (s : State) : Result :=
  match s.lBru1 with
  | none => .next s
  | some u =>
    let tl := f (s.operand u.ps1) (s.insnPc u)
    .next { s with lBru2 := some { entry := u, target := tl.1, link := tl.2 }, lBru1 := none }

/-- Record a resolution in the ROB entry (R201). -/
def RobEntry.resolve (e : RobEntry) (b : BruOp) (taken : Bool) : RobEntry :=
  { e with result := b.link, ea := b.target, taken := taken, resultValid := true }

/-- Every resolution releases fetch for the next cycle (R203). -/
def State.releaseFetch (s : State) : State := { s with branchPending := false, redirect := true }

/-- BRU2 (R201) with the outcome `taken`. -/
def bru2Stage (taken : Bool) (s : State) : Result :=
  match s.lBru2 with
  | none => .next s
  | some b =>
    let t := s.robUpdate b.entry.rob (fun e => e.resolve b taken)
    let t := { t with lBru2 := none }
    .next (if taken then (t.squash b.target).releaseFetch else t.releaseFetch)

/-- Put a micro-op into L.MEM2: the first pass-through latch, or the access latch where there is none (R220, R221). -/
def State.intoMem2 (s : State) (m : MemOp) : State :=
  match s.memPass with
  | [] => { s with lAcc := some m }
  | _ :: ms => { s with memPass := some m :: ms }

/-- MEM1, address generation (R220): `ea` and `data` from the three source values. -/
def mem1Stage (ea data : Word → Word → Word → Word) (s : State) : Result :=
  match s.lMem1 with
  | none => .next s
  | some u =>
    let a := s.operand u.ps1
    let b := s.operand u.ps2
    let c := s.operand u.ps3
    .next ({ s with lMem1 := none }.intoMem2 { entry := u, ea := ea a b c, data := data a b c })

/-- The access stage of a load (R222). -/
def accessLoad (s : State) : Result :=
  match s.lAcc with
  | none => .next s
  | some m =>
    if s.inRange m.ea then
      let t := s.robUpdate m.entry.rob (fun e => e.finish (s.memRead m.ea))
      .next { t with lAcc := none }
    else .next (s.raiseFault (.dmemRange m.ea))

/-- Stage a store's value and address in its ROB entry (R222). -/
def RobEntry.stageStore (e : RobEntry) (m : MemOp) : RobEntry :=
  { e with result := m.data, ea := m.ea, resultValid := true }

/-- The access stage of a store (R222). -/
def accessStore (s : State) : Result :=
  match s.lAcc with
  | none => .next s
  | some m =>
    let t := s.robUpdate m.entry.rob (fun e => e.stageStore m)
    .next { t with lAcc := none }

/-! ### Commit of the head entry (46_commit.md R240 to R248) -/

/-- Retire the head entry's result into `rd`, where the entry has a physical destination. -/
def State.retireHead (s : State) (rd : Nat) (e : RobEntry) : State :=
  match e.pd with
  | some pd => s.retire e.result rd pd
  | none => s

/-- Producer commit: Retire, then Pop (R242). -/
def commitProducer (rd : Nat) (s : State) : Result :=
  match s.headEntry with
  | none => .next s
  | some e => .next (s.retireHead rd e).pop

/-- Store commit: the range check, the write, then Pop; on a fault the entry stays at the head and memory is unchanged (R241). -/
def commitStore (s : State) : Result :=
  match s.headEntry with
  | none => .next s
  | some e => if s.inRange e.ea then .next (s.memWrite e.ea e.result).pop else .next (s.raiseFault (.dmemRange e.ea))

/-- BZ and BNZ commit: Pop, and a ROB reset if the recorded outcome is taken (R244). -/
def commitBranch (s : State) : Result :=
  match s.headEntry with
  | none => .next s
  | some e => .next (if e.taken then s.pop.robReset e.ea else s.pop)

/-- JAL commit: Retire the link, Pop, ROB reset (R245). -/
def commitJal (rd : Nat) (s : State) : Result :=
  match s.headEntry with
  | none => .next s
  | some e => .next ((s.retireHead rd e).pop.robReset e.ea)

/-- JUMP commit: Pop, ROB reset (R246). -/
def commitJump (s : State) : Result :=
  match s.headEntry with
  | none => .next s
  | some e => .next (s.pop.robReset e.ea)

/-- NOP commit: Pop (R247). -/
def commitNop (s : State) : Result :=
  match s.headEntry with
  | none => .next s
  | some _ => .next s.pop

/-- HALT commit: Pop, then the completion bits (R248). -/
def commitHalt (s : State) : Result :=
  match s.headEntry with
  | none => .next s
  | some _ => .next { s.pop with halted := true, haltRetired := true }

end Sys2Proof.Machine
end

