-- ==== Sys2Proof/Machine/Branch.lean ====
section
/-! DEFINITION. The BRANCH-class instructions (44_branch.md): dispatched with branch_pending set, target at BRU1, resolved at BRU2, a ROB reset at commit if taken. -/

namespace Sys2Proof.Machine

/-- JUMP (R204): target = V(ps1) + imm; always taken; commit pops and resets the ROB (R246). -/
def execJump (rs1 : Nat) (imm : Word) (s : State) : Result :=
  match s.stage with
  | .dispatch => dispatch (.jump rs1 imm) s
  | .bru1 => bru1Stage (fun a _ => (wordAdd s.xlen a imm, 0)) s
  | .bru2 => bru2Stage true s
  | .commit => commitJump s
  | .int | .mul1 | .mul3 | .mem1 | .access => .refused .notAtThisStage

/-- JAL (R205): target = V(ps1) + imm, link = wrap(pc_i + INSN_BYTES); always taken; commit retires the link and resets the ROB (R245). -/
def execJal (rd rs1 : Nat) (imm : Word) (s : State) : Result :=
  match s.stage with
  | .dispatch => dispatch (.jal rd rs1 imm) s
  | .bru1 => bru1Stage (fun a pc => (wordAdd s.xlen a imm, s.nextPc pc)) s
  | .bru2 => bru2Stage true s
  | .commit => commitJal rd s
  | .int | .mul1 | .mul3 | .mem1 | .access => .refused .notAtThisStage

/-- BZ (R206): target = pc_i + imm; taken iff Z = 1 at BRU2; commit resets the ROB if taken (R244). -/
def execBz (imm : Word) (s : State) : Result :=
  match s.stage with
  | .dispatch => dispatch (.bz imm) s
  | .bru1 => bru1Stage (fun _ pc => (wordAdd s.xlen pc imm, 0)) s
  | .bru2 => bru2Stage s.z s
  | .commit => commitBranch s
  | .int | .mul1 | .mul3 | .mem1 | .access => .refused .notAtThisStage

/-- BNZ (R207): target = pc_i + imm; taken iff Z = 0 at BRU2; commit resets the ROB if taken (R244). -/
def execBnz (imm : Word) (s : State) : Result :=
  match s.stage with
  | .dispatch => dispatch (.bnz imm) s
  | .bru1 => bru1Stage (fun _ pc => (wordAdd s.xlen pc imm, 0)) s
  | .bru2 => bru2Stage (!s.z) s
  | .commit => commitBranch s
  | .int | .mul1 | .mul3 | .mem1 | .access => .refused .notAtThisStage

end Sys2Proof.Machine
end

