-- ==== Sys2Proof/Machine/Integer.lean ====
section
/-! DEFINITION. The INT-class instructions (42_integer.md): each is dispatched, passes the one integer stage, and commits as a producer (R242). -/

namespace Sys2Proof.Machine

/-- ADD (R161): r = a + b; sets Z. -/
def execAdd (rd rs1 rs2 : Nat) (s : State) : Result :=
  match s.stage with
  | .dispatch => dispatch (.add rd rs1 rs2) s
  | .int => intStage (fun a b => wordAdd s.xlen a b) true s
  | .commit => commitProducer rd s
  | .mul1 | .mul3 | .bru1 | .bru2 | .mem1 | .access => .refused .notAtThisStage

/-- SUB (R162): r = a - b; sets Z. -/
def execSub (rd rs1 rs2 : Nat) (s : State) : Result :=
  match s.stage with
  | .dispatch => dispatch (.sub rd rs1 rs2) s
  | .int => intStage (fun a b => wordSub s.xlen a b) true s
  | .commit => commitProducer rd s
  | .mul1 | .mul3 | .bru1 | .bru2 | .mem1 | .access => .refused .notAtThisStage

/-- ADDL (R163): r = a + imm; sets Z. -/
def execAddl (rd rs1 : Nat) (imm : Word) (s : State) : Result :=
  match s.stage with
  | .dispatch => dispatch (.addl rd rs1 imm) s
  | .int => intStage (fun a _ => wordAdd s.xlen a imm) true s
  | .commit => commitProducer rd s
  | .mul1 | .mul3 | .bru1 | .bru2 | .mem1 | .access => .refused .notAtThisStage

/-- SUBL (R164): r = a - imm; sets Z. -/
def execSubl (rd rs1 : Nat) (imm : Word) (s : State) : Result :=
  match s.stage with
  | .dispatch => dispatch (.subl rd rs1 imm) s
  | .int => intStage (fun a _ => wordSub s.xlen a imm) true s
  | .commit => commitProducer rd s
  | .mul1 | .mul3 | .bru1 | .bru2 | .mem1 | .access => .refused .notAtThisStage

/-- AND (R165): r = a & b; Z unchanged. -/
def execAnd (rd rs1 rs2 : Nat) (s : State) : Result :=
  match s.stage with
  | .dispatch => dispatch (.and rd rs1 rs2) s
  | .int => intStage (wordAnd) false s
  | .commit => commitProducer rd s
  | .mul1 | .mul3 | .bru1 | .bru2 | .mem1 | .access => .refused .notAtThisStage

/-- OR (R166): the bitwise OR; Z unchanged. -/
def execOr (rd rs1 rs2 : Nat) (s : State) : Result :=
  match s.stage with
  | .dispatch => dispatch (.or rd rs1 rs2) s
  | .int => intStage (wordOr) false s
  | .commit => commitProducer rd s
  | .mul1 | .mul3 | .bru1 | .bru2 | .mem1 | .access => .refused .notAtThisStage

/-- XOR (R167): the bitwise exclusive OR; Z unchanged. -/
def execXor (rd rs1 rs2 : Nat) (s : State) : Result :=
  match s.stage with
  | .dispatch => dispatch (.xor rd rs1 rs2) s
  | .int => intStage (wordXor) false s
  | .commit => commitProducer rd s
  | .mul1 | .mul3 | .bru1 | .bru2 | .mem1 | .access => .refused .notAtThisStage

/-- CMP (R168): r = a - b, written to rd like any result; sets Z. -/
def execCmp (rd rs1 rs2 : Nat) (s : State) : Result :=
  match s.stage with
  | .dispatch => dispatch (.cmp rd rs1 rs2) s
  | .int => intStage (fun a b => wordSub s.xlen a b) true s
  | .commit => commitProducer rd s
  | .mul1 | .mul3 | .bru1 | .bru2 | .mem1 | .access => .refused .notAtThisStage

/-- MOVC (R169): r = imm; Z unchanged. -/
def execMovc (rd : Nat) (imm : Word) (s : State) : Result :=
  match s.stage with
  | .dispatch => dispatch (.movc rd imm) s
  | .int => intStage (fun _ _ => imm) false s
  | .commit => commitProducer rd s
  | .mul1 | .mul3 | .bru1 | .bru2 | .mem1 | .access => .refused .notAtThisStage

end Sys2Proof.Machine
end

