-- ==== Sys2Proof/Machine/MemoryUnit.lean ====
section
/-! DEFINITION. The MEM-class instructions (45_memory_unit.md): address generation at MEM1, a load reads and a store is staged at the access stage, a store writes memory at commit. -/

namespace Sys2Proof.Machine

/-- LOAD (R224): ea = V(ps1) + imm; the cell is read at the access stage. -/
def execLoad (rd rs1 : Nat) (imm : Word) (s : State) : Result :=
  match s.stage with
  | .dispatch => dispatch (.load rd rs1 imm) s
  | .mem1 => mem1Stage (fun a _ _ => wordAdd s.xlen a imm) (fun _ _ _ => 0) s
  | .access => accessLoad s
  | .commit => commitProducer rd s
  | .int | .mul1 | .mul3 | .bru1 | .bru2 => .refused .notAtThisStage

/-- STORE (R225): ea = V(ps2) + imm, data = V(ps1); the cell is written at commit. -/
def execStore (rs1 rs2 : Nat) (imm : Word) (s : State) : Result :=
  match s.stage with
  | .dispatch => dispatch (.store rs1 rs2 imm) s
  | .mem1 => mem1Stage (fun _ b _ => wordAdd s.xlen b imm) (fun a _ _ => a) s
  | .access => accessStore s
  | .commit => commitStore s
  | .int | .mul1 | .mul3 | .bru1 | .bru2 => .refused .notAtThisStage

/-- LDR (R226): ea = V(ps1) + V(ps2); the cell is read at the access stage. -/
def execLdr (rd rs1 rs2 : Nat) (s : State) : Result :=
  match s.stage with
  | .dispatch => dispatch (.ldr rd rs1 rs2) s
  | .mem1 => mem1Stage (fun a b _ => wordAdd s.xlen a b) (fun _ _ _ => 0) s
  | .access => accessLoad s
  | .commit => commitProducer rd s
  | .int | .mul1 | .mul3 | .bru1 | .bru2 => .refused .notAtThisStage

/-- STR (R227): ea = V(ps2) + V(ps3), data = V(ps1); the cell is written at commit. -/
def execStr (rs1 rs2 rs3 : Nat) (s : State) : Result :=
  match s.stage with
  | .dispatch => dispatch (.str rs1 rs2 rs3) s
  | .mem1 => mem1Stage (fun _ b c => wordAdd s.xlen b c) (fun a _ _ => a) s
  | .access => accessStore s
  | .commit => commitStore s
  | .int | .mul1 | .mul3 | .bru1 | .bru2 => .refused .notAtThisStage

end Sys2Proof.Machine
end

