-- ==== Sys2Proof/Machine/Multiply.lean ====
section
/-! DEFINITION. The MUL-class instruction (43_multiply.md). -/

namespace Sys2Proof.Machine

/-- MUL (R193): r = the low XLEN bits of the product, computed at MUL1 and written to the ROB at MUL3; Z unchanged. -/
def execMul (rd rs1 rs2 : Nat) (s : State) : Result :=
  match s.stage with
  | .dispatch => dispatch (.mul rd rs1 rs2) s
  | .mul1 => mul1Stage (fun a b => wordMul s.xlen a b) s
  | .mul3 => mul3Stage s
  | .commit => commitProducer rd s
  | .int | .bru1 | .bru2 | .mem1 | .access => .refused .notAtThisStage

end Sys2Proof.Machine
end

