-- ==== Sys2Proof/Machine/System.lean ====
section
/-! DEFINITION. NOP and HALT (R118, R119, R247, R248): a ROB entry that is valid at dispatch, and an effect at commit only; no unit sees them. -/

namespace Sys2Proof.Machine

/-- NOP (R119, R247): a ROB entry; nothing at commit. -/
def execNop (s : State) : Result :=
  match s.stage with
  | .dispatch => dispatch (.nop) s
  | .commit => commitNop s
  | .int | .mul1 | .mul3 | .bru1 | .bru2 | .mem1 | .access => .refused .notAtThisStage

/-- HALT (R118, R248): a ROB entry; at commit it completes the run. -/
def execHalt (s : State) : Result :=
  match s.stage with
  | .dispatch => dispatch (.halt) s
  | .commit => commitHalt s
  | .int | .mul1 | .mul3 | .bru1 | .bru2 | .mem1 | .access => .refused .notAtThisStage

end Sys2Proof.Machine
end

