-- ==== Sys2Proof/Machine/Stages.lean ====
section
/-! DEFINITION. The cycle (R101): every stage in order, each one running the instruction it holds through exec. -/

namespace Sys2Proof.Machine

/-- Set the stage back to what it is at every cycle boundary (log 3). -/
def settle : Result → Result
  | .next t => .next { t with stage := .dispatch }
  | .fault f => .fault f
  | .refused r => .refused r

/-- Evaluate one stage for the instruction it processes. -/
def runStage (st : Stage) (i : Instr) (s : State) : Result := settle (exec i { s with stage := st })

/-- The next stage runs after this one unless a fault ended the cycle (R103). -/
def andThen (o : Result) (f : State → Result) : Result :=
  match o with
  | .next s => if s.fault.isSome then .next s else f s
  | .fault r => .fault r
  | .refused r => .refused r

/-- Start of cycle (R103). -/
def startCycle (s : State) : State := { s with redirect := false, haltRetired := false }

/-- Commit stops for the cycle after a ROB reset, after a HALT, or at a fault (R240, R250). -/
def State.commitStops (s : State) : Bool := s.redirect || s.haltRetired || s.fault.isSome

/-- The commit loop (R240), for at most `fuel` entries: consecutive valid entries are committed from the head. -/
def commitLoop : Nat → State → Result
  | 0, s => .next s
  | n + 1, s =>
    match s.headEntry with
    | none => .next s
    | some e =>
      if e.resultValid then
        match runStage .commit e.insn s with
        | .next t => if t.commitStops then .next t else commitLoop n t
        | .fault r => .fault r
        | .refused r => .refused r
      else .next s

/-- The commit stage (R240). Every pass removes an entry, so `count` passes are enough. -/
def commitStage (s : State) : Result := commitLoop s.count s

/-- The access stage MEM<L_MEM> (R222). -/
def accessStage (s : State) : Result :=
  match s.lAcc with
  | none => .next s
  | some m => runStage .access m.entry.insn s

/-- The pass-through stages MEM<L_MEM-1> down to MEM2 (R221): each micro-op moves one latch on, the last into the access latch. -/
def passStage (s : State) : State :=
  match s.memPass.getLast? with
  | none => s
  | some m => { s with lAcc := m, memPass := none :: s.memPass.dropLast }

/-- MEM1 (R220). -/
def agenStage (s : State) : Result :=
  match s.lMem1 with
  | none => .next s
  | some u => runStage .mem1 u.insn s

/-- BRU2 (R201). -/
def resolveStage (s : State) : Result :=
  match s.lBru2 with
  | none => .next s
  | some b => runStage .bru2 b.entry.insn s

/-- BRU1 (R200). -/
def targetStage (s : State) : Result :=
  match s.lBru1 with
  | none => .next s
  | some u => runStage .bru1 u.insn s

/-- MUL3 (R192). -/
def mulWriteStage (s : State) : Result :=
  match s.lMul3 with
  | none => .next s
  | some m => runStage .mul3 m.entry.insn s

/-- MUL2 (R191): the micro-op moves on unchanged. -/
def mulPassStage (s : State) : State := { s with lMul3 := s.lMul2, lMul2 := none }

/-- MUL1 (R190). -/
def mulStartStage (s : State) : Result :=
  match s.lMul1 with
  | none => .next s
  | some u => runStage .mul1 u.insn s

/-- The integer stage (R160). -/
def integerStage (s : State) : Result :=
  match s.lInt with
  | none => .next s
  | some u => runStage .int u.insn s

/-- The lowest slot that holds a ready micro-op of class `c` (R142). -/
def State.select (s : State) (c : FuClass) : Option Nat :=
  s.iq.findIdx? (fun e => match e with
    | some u => u.cls == some c && s.ready u
    | none => false)

/-- Put a micro-op into the first latch of its unit; for MEM the ROB entry is marked memory-ready (R142). -/
def State.place (s : State) (c : FuClass) (u : IqEntry) : State :=
  match c with
  | .int => { s with lInt := some u }
  | .mul => { s with lMul1 := some u }
  | .branch => { s with lBru1 := some u }
  | .mem => { s.robUpdate u.rob (fun e => { e with memReady := true }) with lMem1 := some u }

/-- Issue the micro-op of slot `k`, if one was selected: the slot becomes free and the unit's first latch holds it (R142). -/
def State.issueFrom (s : State) (c : FuClass) : Option Nat → State
  | none => s
  | some k =>
    match s.iq[k]?.join with
    | none => s
    | some u => { s with iq := s.iq.set k none }.place c u

/-- The issue stage (R142): the four selections are made against the same queue, and then taken. -/
def issueStage (s : State) : State :=
  (((s.issueFrom .int (s.select .int)).issueFrom .mul (s.select .mul)).issueFrom .branch (s.select .branch)).issueFrom
    .mem (s.select .mem)

/-- The dispatch stage (R108). -/
def dispatchStage (s : State) : Result :=
  match s.ld with
  | none => .next s
  | some d => runStage .dispatch d.insn s

/-- The index in the store of the instruction at code address `a`, for an aligned address from BASE_PC up (R65, R106). -/
def State.fetchIndex (s : State) (a : Nat) : Option Nat :=
  if s.basePc ≤ a ∧ (a - s.basePc) % s.insnBytes = 0 then some ((a - s.basePc) / s.insnBytes)
  else none

/-- `IFetch(a)` (R106). -/
def State.ifetch (s : State) (a : Word) : Option Instr :=
  match s.fetchIndex a with
  | some k => s.imem[k]?
  | none => none

/-- `L.D <- L.F; L.F <- empty` if L.D is empty (R105). -/
def State.advanceFront (s : State) : State :=
  match s.ld with
  | none => { s with ld := s.lf, lf := none }
  | some _ => s

/-- The fetch stage (R105, R107). -/
def fetchStage (s : State) : State :=
  if s.redirect || s.branchPending then s
  else
    match s.lf with
    | some _ => s.advanceFront
    | none =>
      match s.ifetch s.pc with
      | none => s
      | some i =>
        { s with lf := some { pc := s.pc, insn := i }, pc := s.nextPc s.pc }.advanceFront

/-- End of cycle (R104, R251). -/
def endCycle (s : State) : State := if s.haltRetired then s.resync else s

/-- Stage 3 of R101: the memory stages, last first. -/
def memoryStages (s : State) : Result := andThen (accessStage s) (fun s => agenStage (passStage s))

/-- Stages 4 to 9 of R101: branch, multiply and integer. -/
def executeStages (s : State) : Result :=
  andThen (andThen (andThen (andThen (resolveStage s) targetStage) mulWriteStage)
    (fun s => mulStartStage (mulPassStage s))) integerStage

/-- Stages 3 to 9 of R101: the functional units. -/
def unitStages (s : State) : Result := andThen (memoryStages s) executeStages

/-- Stages 1 to 9 of R101: everything before issue. -/
def beforeIssue (s : State) : Result := andThen (commitStage (startCycle s)) unitStages

/-- Stages 10 and 11 of R101: issue and dispatch. -/
def issueAndDispatch (s : State) : Result := dispatchStage (issueStage s)

/-- Stages 12 and 13 of R101: fetch and end of cycle. -/
def fetchAndEnd (s : State) : Result := .next (endCycle (fetchStage s))

/-- Stages 10 to 13 of R101. -/
def frontStages (s : State) : Result := andThen (issueAndDispatch s) fetchAndEnd

/-- One cycle (R101). -/
def cycle (s : State) : Result := andThen (beforeIssue s) frontStages

/-- One step: no step once halted or faulted, one cycle otherwise (R103). -/
def stepCycle (s : State) : Result :=
  match s.status with
  | .faulted f => .fault (.faulted f)
  | .halted => .fault .halted
  | .running => cycle s

end Sys2Proof.Machine
end

