-- ==== Sys2Proof/Machine/Launch.lean ====
section
/-! DEFINITION. The host's side (R284): the launch of a machine (R292, R293), the read-out (R44), and how an instruction is placed
where the next step takes it (log 7). -/

namespace Sys2Proof.Machine

/-- Why a launch is refused (R87, R273, R292). -/
inductive LaunchError where
  /-- A record of the store spells no instruction. -/
  | badRecord (e : DecodeError)
  /-- The parameter record breaks a constraint of R10, or the one value a fixed parameter has (log 16). -/
  | badParams
  /-- A preloaded register is no logical register, or has no physical slot of its number. -/
  | badRegister (r : Nat)
  /-- A preloaded value is no word of XLEN bits (R11). -/
  | badValue (v : Nat)
  /-- A preloaded cell is outside the data memory. -/
  | badCell (a : Nat)
  deriving DecidableEq, Repr

/-- The instruction store of a sequence of records, or the first record's refusal (R40, R87). -/
def buildStore (n w : Nat) : List Record → Except DecodeError (List Instr)
  | [] => .ok []
  | r :: rs =>
    match decode n w r with
    | .error e => .error e
    | .ok i =>
      match buildStore n w rs with
      | .error e => .error e
      | .ok is => .ok (i :: is)

/-- Preload one logical register (R292): slot r holds the value, and both tables map r to it. -/
def State.preloadReg (s : State) (r : Nat) (v : Word) : State :=
  { s with
    prf := s.prf.set r { value := v, hasResult := true, busy := true }
    srat := s.srat.set r (some r)
    rrat := s.rrat.set r (some r) }

/-- Preload one data cell (R292). -/
def State.preloadCell (s : State) (a : Nat) (v : Word) : State := { s with dmem := Mem.write s.dmem a v }

/-- Preload a list of registers, each below N_ARCH and N_PHYS (R292). -/
def preloadRegs (s : State) : List (Nat × Word) → Except LaunchError State
  | [] => .ok s
  | (r, v) :: rs =>
    if r < s.rrat.length ∧ r < s.prf.length then
      if isWord s.xlen v then preloadRegs (s.preloadReg r v) rs else .error (.badValue v)
    else .error (.badRegister r)

/-- Preload a list of data cells, each in 0 .. DMEM_SIZE - 1 (R292). -/
def preloadCells (s : State) : List (Nat × Word) → Except LaunchError State
  | [] => .ok s
  | (a, v) :: cs =>
    if a < s.dmemSize then
      if isWord s.xlen v then preloadCells (s.preloadCell a v) cs else .error (.badValue v)
    else .error (.badCell a)

/-- A launch (R293): a parameter record that R10 allows, the reset state, the store, the preload. -/
def launch (p : Params) (store : List Record) (regs : List (Nat × Word)) (cells : List (Nat × Word)) :
    Except LaunchError State :=
  if p.wf then
    match buildStore p.nArch p.xlen store with
    | .error e => .error (.badRecord e)
    | .ok is =>
      match preloadRegs { State.resetWith p with imem := is } regs with
      | .error e => .error e
      | .ok s => preloadCells s cells
  else .error .badParams

/-- The architectural value of a logical register; none where it holds no value (R21). -/
def State.archReg (s : State) (r : Nat) : Option Word :=
  match s.retired r with
  | some p => some (s.physValue p)
  | none => none

/-- The occupied issue-queue slots, with their indices (R44). -/
def State.iqOccupancy (s : State) : List Nat :=
  (List.range s.iq.length).filter (fun k => s.iq[k]?.join.isSome)

/-- The completion output: the machine is halted (R35, R284, R295). A faulted one never is (R271). -/
def State.completed (s : State) : Bool := s.status == .halted

/-- Put instruction `i` into slot `k` of a store, filling slots before it that do not exist with NOP. -/
def placeInstr (imem : List Instr) (k : Nat) (i : Instr) : List Instr :=
  imem.take k ++ List.replicate (k - imem.length) .nop ++ i :: imem.drop (k + 1)

/-- The state in which `i` has just been fetched from address `pc` (log 7): it stands in the store at that address, it is in
L.D, where the next cycle's dispatch takes it, and `pc` has moved past it. -/
def State.withFetched (s : State) (i : Instr) : State :=
  { s with
    imem := match s.fetchIndex s.pc with
      | some k => placeInstr s.imem k i
      | none => s.imem
    lf := none
    ld := some { pc := s.pc, insn := i }
    pc := s.nextPc s.pc }

end Sys2Proof.Machine
end

