-- ==== Sys2Proof/Machine/Step.lean ====
section
/-! DEFINITION. The step, one clock cycle (R100, R101), and the placing of an instruction by its table bits. -/

namespace Sys2Proof.Machine

/-- The machine's only step: one cycle (R100). -/
def step (s : State) : Host.Outcome State Fault Refusal := stepCycle s

/-- The state with the instruction of the table bits `w` placed where the next step takes it (log 7); unchanged where the
bits spell no instruction, since a launch with such a record is refused (R87). -/
def State.withFetchWord (s : State) (nbits w : Nat) : State :=
  match decodeTableWord nbits w with
  | some i => s.withFetched i
  | none => s

end Sys2Proof.Machine
end

