-- ==== Sys2Proof/Safety.lean ====
section
/-! DEFINITION. What the claims about the machine are stated in terms of: the launch premises (R293) and the invariants of a run. -/

namespace Sys2Proof.Machine

/-- The opcodes that write Z: ADD, SUB, ADDL, SUBL and CMP (R31, the last column of R88). -/
def writesZ : Instr → Bool
  | .add _ _ _ => true
  | .sub _ _ _ => true
  | .addl _ _ _ => true
  | .subl _ _ _ => true
  | .cmp _ _ _ => true
  | .and _ _ _ => false
  | .or _ _ _ => false
  | .xor _ _ _ => false
  | .mul _ _ _ => false
  | .movc _ _ => false
  | .load _ _ _ => false
  | .store _ _ _ => false
  | .ldr _ _ _ => false
  | .str _ _ _ => false
  | .jump _ _ => false
  | .jal _ _ _ => false
  | .bz _ => false
  | .bnz _ => false
  | .nop => false
  | .halt => false

/-- Nothing is in flight behind the front end: the ROB and the issue queue are empty and every functional-unit latch is empty. -/
structure State.BackEndIdle (s : State) : Prop where
  count : s.count = 0
  iq : ∀ e ∈ s.iq, e = none
  lInt : s.lInt = none
  lMul1 : s.lMul1 = none
  lMul2 : s.lMul2 = none
  lMul3 : s.lMul3 = none
  lBru1 : s.lBru1 = none
  lBru2 : s.lBru2 = none
  lMem1 : s.lMem1 = none
  memPass : ∀ m ∈ s.memPass, m = none
  lAcc : s.lAcc = none

/-- Nothing is in flight: the ROB and the issue queue are empty and every latch, of the front end too, is empty (R293). -/
structure State.NothingInFlight (s : State) : Prop extends s.BackEndIdle where
  lf : s.lf = none
  ld : s.ld = none

/-- The machine may take a cycle: it is neither halted nor faulted (R103), at a cycle boundary. -/
structure State.Running (s : State) : Prop where
  halted : s.halted = false
  fault : s.fault = none
  stage : s.stage = .dispatch

/-- Physical slot `p` is mapped by exactly one logical register, the same one in both tables (R293). -/
def State.MappedOnce (s : State) (p : Nat) : Prop :=
  ∃ r : Nat, s.srat[r]? = some (some p) ∧ s.rrat[r]? = some (some p) ∧
    ∀ q : Nat, s.srat[q]? = some (some p) ∨ s.rrat[q]? = some (some p) → q = r

/-- The launch predicate: the premises that a claim about a run of a machine with the parameters `p` may take (R293). -/
structure Launched (p : Params) (s : State) : Prop where
  nothing : s.NothingInFlight
  branchPending : s.branchPending = false
  halted : s.halted = false
  fault : s.fault = none
  z : s.z = p.zReset
  busy : ∀ q r, s.prf[q]? = some r → r.busy = true → s.MappedOnce q
  store : ∀ i ∈ s.imem, i.wf p.nArch p.xlen = true

/-- Every unit latch holds a micro-op of its own class (R38, R41, R142). -/
structure State.UnitsOk (s : State) : Prop where
  int : ∀ u, s.lInt = some u → u.cls = some .int
  mul1 : ∀ u, s.lMul1 = some u → u.cls = some .mul
  mul2 : ∀ m, s.lMul2 = some m → m.entry.cls = some .mul
  mul3 : ∀ m, s.lMul3 = some m → m.entry.cls = some .mul
  bru1 : ∀ u, s.lBru1 = some u → u.cls = some .branch
  bru2 : ∀ b, s.lBru2 = some b → b.entry.cls = some .branch
  mem1 : ∀ u, s.lMem1 = some u → u.cls = some .mem
  pass : ∀ m, some m ∈ s.memPass → m.entry.cls = some .mem
  acc : ∀ m, s.lAcc = some m → m.entry.cls = some .mem

/-- The reorder buffer is a circular window: the cursors are in range, `tail` is `count` entries after `head`, and exactly the
`count` entries from `head` on are occupied (R39). -/
structure State.RobOk (s : State) : Prop where
  head : s.head < s.rob.length
  count : s.count ≤ s.rob.length
  tail : s.tail = (s.head + s.count) % s.rob.length
  occupied : ∀ j, j < s.rob.length → ((s.robAt (s.robIndex j)).isSome ↔ j < s.count)

/-- The instruction of a front-end latch, of the store or of the ROB is well formed: it names only logical registers, and its
immediate is a word (R80, R87). -/
structure State.InsnsOk (s : State) : Prop where
  tables : s.srat.length = s.rrat.length
  store : ∀ i ∈ s.imem, i.wf s.rrat.length s.xlen = true
  lf : ∀ d, s.lf = some d → d.insn.wf s.rrat.length s.xlen = true
  ld : ∀ d, s.ld = some d → d.insn.wf s.rrat.length s.xlen = true
  rob : ∀ e, some e ∈ s.rob → e.insn.wf s.rrat.length s.xlen = true ∧ e.pd.isSome = e.insn.producer

/-- The rename table that the mappings of a list of entries, oldest first, make of `table`. -/
def replay (table : List (Option Nat)) (es : List RobEntry) : List (Option Nat) :=
  es.foldl (fun t e => match e.rd, e.pd with
    | some rd, some pd => t.set rd (some pd)
    | _, _ => t) table

/-- SRAT is RRAT with the mappings of the in-flight producers laid over it in program order (R28), or, once a HALT has
retired, RRAT itself (R251); and the per-cycle bit `haltRetired` is set only beside `halted` (R35, R248). -/
structure State.RenameOk (s : State) : Prop where
  tables : s.srat = replay s.rrat s.inFlight ∨ (s.halted = true ∧ s.srat = s.rrat)
  halt : s.haltRetired = true → s.halted = true

/-- The physical slots that are accounted for: those a retirement mapping names, and the destinations in flight (R253). -/
def State.owned (s : State) : List Nat := s.rrat.filterMap id ++ s.inFlight.filterMap (fun e => e.pd)

/-- Free-list conservation and single ownership: no slot is accounted for twice, and the busy slots are exactly the slots
accounted for (R122, R253). -/
structure State.FreeListOk (s : State) : Prop where
  nodup : s.owned.Nodup
  range : ∀ p ∈ s.owned, p < s.prf.length
  busy : ∀ p r, s.prf[p]? = some r → (r.busy = true ↔ p ∈ s.owned)

/-- The memory list is canonical and lists cells of the data memory only (R42, R62). -/
structure State.MemOk (s : State) : Prop where
  canonical : Mem.wf s.dmem
  range : ∀ c ∈ s.dmem, c.1 < s.dmemSize

/-- The immediate of an instruction is a word (R80). -/
abbrev Instr.ImmOk (w : Nat) (i : Instr) : Prop := isWord w (encodeImm i)

/-- The words of a front-end latch (R37). -/
structure Fetched.Words (w : Nat) (d : Fetched) : Prop where
  pc : isWord w d.pc
  imm : Instr.ImmOk w d.insn

/-- The words of a ROB entry (R39). -/
structure RobEntry.Words (w : Nat) (e : RobEntry) : Prop where
  pc : isWord w e.pc
  imm : Instr.ImmOk w e.insn
  result : isWord w e.result
  ea : isWord w e.ea

/-- The words of a micro-op in the multiply pipeline (R41). -/
structure MulOp.Words (w : Nat) (m : MulOp) : Prop where
  imm : Instr.ImmOk w m.entry.insn
  prod : isWord w m.prod

/-- The words of a micro-op in L.BRU2 (R41). -/
structure BruOp.Words (w : Nat) (b : BruOp) : Prop where
  imm : Instr.ImmOk w b.entry.insn
  target : isWord w b.target
  link : isWord w b.link

/-- The words of a micro-op in a memory latch after address generation (R41). -/
structure MemOp.Words (w : Nat) (m : MemOp) : Prop where
  imm : Instr.ImmOk w m.entry.insn
  ea : isWord w m.ea
  data : isWord w m.data

/-- Every register value, immediate, address and the PC is a word of XLEN bits (R9, R11, R23, R29, R37 to R42). -/
structure State.WordsOk (s : State) : Prop where
  prf : ∀ r ∈ s.prf, isWord s.xlen r.value
  pc : isWord s.xlen s.pc
  lf : ∀ d, s.lf = some d → d.Words s.xlen
  ld : ∀ d, s.ld = some d → d.Words s.xlen
  iq : ∀ u, some u ∈ s.iq → Instr.ImmOk s.xlen u.insn
  rob : ∀ e, some e ∈ s.rob → e.Words s.xlen
  imem : ∀ i ∈ s.imem, Instr.ImmOk s.xlen i
  int : ∀ u, s.lInt = some u → Instr.ImmOk s.xlen u.insn
  mul1 : ∀ u, s.lMul1 = some u → Instr.ImmOk s.xlen u.insn
  mul2 : ∀ m, s.lMul2 = some m → m.Words s.xlen
  mul3 : ∀ m, s.lMul3 = some m → m.Words s.xlen
  bru1 : ∀ u, s.lBru1 = some u → Instr.ImmOk s.xlen u.insn
  bru2 : ∀ b, s.lBru2 = some b → b.Words s.xlen
  mem1 : ∀ u, s.lMem1 = some u → Instr.ImmOk s.xlen u.insn
  pass : ∀ m, some m ∈ s.memPass → m.Words s.xlen
  acc : ∀ m, s.lAcc = some m → m.Words s.xlen
  dmem : ∀ c ∈ s.dmem, isWord s.xlen c.2
  basePc : isWord s.xlen s.basePc

/-- The number of control-flow instructions that are dispatched and not resolved: those in the issue queue, in L.BRU1 and in
L.BRU2 (R33, R209). -/
def State.unresolved (s : State) : Nat :=
  s.iq.countP (fun e => match e with
    | some u => u.insn.ctl
    | none => false)
  + (if s.lBru1.isSome then 1 else 0) + (if s.lBru2.isSome then 1 else 0)

/-- At most one control-flow instruction is unresolved; `branch_pending` says whether there is one, and while there is, L.D is
empty (R33, R116, R209). -/
structure State.BranchOk (s : State) : Prop where
  one : s.unresolved = if s.branchPending then 1 else 0
  front : s.branchPending = true → s.ld = none

/-- The ROB entry `k` is not waited for by any unit: no micro-op of the issue queue or of a latch belongs to it. -/
structure State.NoMicroOpFor (s : State) (k : Nat) : Prop where
  iq : ∀ u, some u ∈ s.iq → u.rob ≠ k
  int : ∀ u, s.lInt = some u → u.rob ≠ k
  mul1 : ∀ u, s.lMul1 = some u → u.rob ≠ k
  mul2 : ∀ m, s.lMul2 = some m → m.entry.rob ≠ k
  mul3 : ∀ m, s.lMul3 = some m → m.entry.rob ≠ k
  bru1 : ∀ u, s.lBru1 = some u → u.rob ≠ k
  bru2 : ∀ b, s.lBru2 = some b → b.entry.rob ≠ k
  mem1 : ∀ u, s.lMem1 = some u → u.rob ≠ k
  pass : ∀ m, some m ∈ s.memPass → m.entry.rob ≠ k
  acc : ∀ m, s.lAcc = some m → m.entry.rob ≠ k

/-- The oldest instruction can never finish: its entry is not valid, and its micro-op is nowhere (R202, R302). -/
structure State.Stranded (s : State) : Prop where
  head : ∃ e, s.headEntry = some e ∧ e.resultValid = false
  lost : s.NoMicroOpFor s.head

/-- What no stage writes: the instruction store (R40), the launch parameters and the sizes (R9). -/
structure SameShape (s t : State) : Prop where
  imem : t.imem = s.imem
  xlen : t.xlen = s.xlen
  insnBytes : t.insnBytes = s.insnBytes
  basePc : t.basePc = s.basePc
  dmemSize : t.dmemSize = s.dmemSize
  prf : t.prf.length = s.prf.length
  srat : t.srat.length = s.srat.length
  rrat : t.rrat.length = s.rrat.length
  iq : t.iq.length = s.iq.length
  rob : t.rob.length = s.rob.length
  memPass : t.memPass.length = s.memPass.length

end Sys2Proof.Machine
end

