-- ==== Sys2Proof/Certificates/Slice0/Obligations.lean ====
section
/-! DEFINITION. The statements for the provers, from the numbered rules of spec/. -/

open Sys2Proof Sys2Proof.Machine

/-- One key word of each family, with its immediate, as 95_test_vectors.md writes it out bit by bit, decodes to the
instruction named beside it; a key word with opcode 20 is refused by name. [95_test_vectors.md L1, L2, L3 encodings;
30_encoding.md section 7] -/
def Obligations.TableWordsDecode : Prop :=
  decodeKey 16 32 0x4260 0 = .ok (.add 3 1 2) ∧ decodeKey 16 32 0x00302 (wrap 32 (-12)) = .ok (.addl 8 1 (wrap 32 (-12))) ∧
  decodeKey 16 32 0x00029 5 = .ok (.movc 1 5) ∧ decodeKey 16 32 0x02368 0 = .ok (.cmp 11 1 1) ∧
  decodeKey 16 32 0x02247 0 = .ok (.mul 2 1 1) ∧ decodeKey 16 32 0x0046A 4 = .ok (.load 3 2 4) ∧
  decodeKey 16 32 0x0420B 4 = .ok (.store 1 2 4) ∧ decodeKey 16 32 0x0648C 0 = .ok (.ldr 4 2 3) ∧
  decodeKey 16 32 0x6420D 0 = .ok (.str 1 2 3) ∧ decodeKey 16 32 0x01E0E 0 = .ok (.jump 15 0) ∧
  decodeKey 16 32 0x01DEF 0 = .ok (.jal 15 14 0) ∧ decodeKey 16 32 0x00010 8 = .ok (.bz 8) ∧
  decodeKey 16 32 0x00011 (wrap 32 (-8)) = .ok (.bnz (wrap 32 (-8))) ∧ decodeKey 16 32 0x00012 0 = .ok .nop ∧
  decodeKey 16 32 0x00013 0 = .ok .halt ∧ decodeKey 16 32 20 0 = .error (.unknownOpcode 20)

/-- For every instruction whose register fields are below N_ARCH, at most 16, and whose immediate is any word of XLEN
bits, the decoder reads the instruction back from the key word of R91 and the immediate; at the default N_ARCH = 16
and XLEN = 32, so does the table interface from the 64-bit image with the key word in bits 31..0 and the immediate in
bits 63..32. That image is the model's choice, log 6. [30_encoding.md sections 1, 2, 7; notes/assumptions/6.md] -/
def Obligations.DecodeOfEncode : Prop :=
  (∀ (n w : Nat) (i : Instr), n ≤ 16 → i.wf n w = true → decodeKey n w (encode i).1 (encode i).2 = .ok i) ∧
  (∀ i : Instr, i.wf 16 32 = true → decodeTableWord 64 ((encode i).1 + 2 ^ 32 * (encode i).2) = some i)

/-- Two records with the same opcode that agree on the fields the format of that opcode uses (R83: RRR, RRI, RI, SRI, SRR,
JI, I, N) are decoded alike: to the same instruction or to the same refusal. [30_encoding.md section 2 (formats of
R83, D14)] -/
def Obligations.DecodeIgnoresUnusedFields : Prop :=
  ∀ (n w : Nat) (r q : Record), r.opcode = q.opcode →
    (r.opcode.toNat ∈ [0, 1, 4, 5, 6, 7, 8, 12] → r.rd = q.rd → r.rs1 = q.rs1 → r.rs2 = q.rs2 → decode n w r = decode n w q) ∧
    (r.opcode.toNat ∈ [2, 3, 10, 15] → r.rd = q.rd → r.rs1 = q.rs1 → r.imm = q.imm → decode n w r = decode n w q) ∧
    (r.opcode.toNat = 9 → r.rd = q.rd → r.imm = q.imm → decode n w r = decode n w q) ∧
    (r.opcode.toNat = 11 → r.rs1 = q.rs1 → r.rs2 = q.rs2 → r.imm = q.imm → decode n w r = decode n w q) ∧
    (r.opcode.toNat = 13 → r.rs1 = q.rs1 → r.rs2 = q.rs2 → r.rs3 = q.rs3 → decode n w r = decode n w q) ∧
    (r.opcode.toNat = 14 → r.rs1 = q.rs1 → r.imm = q.imm → decode n w r = decode n w q) ∧
    (r.opcode.toNat ∈ [16, 17] → r.imm = q.imm → decode n w r = decode n w q) ∧
    (r.opcode.toNat ∈ [18, 19] → decode n w r = decode n w q)

/-- An opcode of 20 or more is refused as unknown. For every opcode, a used register field (destination rd, sources rs1,
rs2, rs3 by format) that is absent or holds a value of N_ARCH or more makes the record refused, never decoded to an
instruction; and so does a used immediate that is no word of XLEN bits (R80; that it is refused is log 8).
[30_encoding.md sections 1, 4 (R80, R87, D14); 60_exceptions.md section 1 (R273); notes/assumptions/8.md] -/
def Obligations.IllFormedRecordsAreRefused : Prop :=
  ∀ (n w : Nat) (r : Record),
    (20 ≤ r.opcode.toNat → decode n w r = .error (.unknownOpcode r.opcode)) ∧
    (r.opcode.toNat ∈ [0, 1, 2, 3, 4, 5, 6, 7, 8, 9, 10, 12, 15] → (∀ v, r.rd = some v → n ≤ v) → ∀ i, decode n w r ≠ .ok i) ∧
    (r.opcode.toNat ∈ [0, 1, 2, 3, 4, 5, 6, 7, 8, 10, 11, 12, 13, 14, 15] → (∀ v, r.rs1 = some v → n ≤ v) →
      ∀ i, decode n w r ≠ .ok i) ∧
    (r.opcode.toNat ∈ [0, 1, 4, 5, 6, 7, 8, 11, 12, 13] → (∀ v, r.rs2 = some v → n ≤ v) → ∀ i, decode n w r ≠ .ok i) ∧
    (r.opcode.toNat = 13 → (∀ v, r.rs3 = some v → n ≤ v) → ∀ i, decode n w r ≠ .ok i) ∧
    (r.opcode.toNat ∈ [2, 3, 9, 10, 11, 14, 15, 16, 17] → 2 ^ w ≤ r.imm → ∀ i, decode n w r ≠ .ok i)

/-- If a record decodes to an instruction, every register field of the instruction is below N_ARCH, its immediate is a
word of XLEN bits, and the opcode of the key word of that instruction (its low five bits) is the opcode of the record.
[30_encoding.md sections 1, 4 (R80, R87)] -/
def Obligations.DecodedInstructionIsWellFormed : Prop :=
  ∀ (n w : Nat) (r : Record) (i : Instr), decode n w r = .ok i →
    i.wf n w = true ∧ encodeKey i % 32 = r.opcode.toNat

/-- For each of the 20 instructions: the logical sources in role order, the destination (present exactly for the
producers), the functional-unit class (none for NOP and HALT), and whether it writes Z. Control flow is exactly the
BRANCH class and memory exactly the MEM class. That JUMP is no producer is the resolution C2, the operand roles of
ADDL, SUBL, LDR, STR and CMP are decision D14. [30_encoding.md sections 2, 5 (tables of R84, R88, R89)] -/
def Obligations.OpcodeAttributes : Prop :=
  ∀ (rd rs1 rs2 rs3 : Nat) (imm : Word),
    (∀ i ∈ [Instr.add rd rs1 rs2, .sub rd rs1 rs2, .cmp rd rs1 rs2],
      i.srcs = [rs1, rs2] ∧ i.dst = some rd ∧ i.cls = some .int ∧ writesZ i = true) ∧
    (∀ i ∈ [Instr.addl rd rs1 imm, .subl rd rs1 imm],
      i.srcs = [rs1] ∧ i.dst = some rd ∧ i.cls = some .int ∧ writesZ i = true) ∧
    (∀ i ∈ [Instr.and rd rs1 rs2, .or rd rs1 rs2, .xor rd rs1 rs2],
      i.srcs = [rs1, rs2] ∧ i.dst = some rd ∧ i.cls = some .int ∧ writesZ i = false) ∧
    (∀ i ∈ [Instr.movc rd imm], i.srcs = [] ∧ i.dst = some rd ∧ i.cls = some .int ∧ writesZ i = false) ∧
    (∀ i ∈ [Instr.mul rd rs1 rs2], i.srcs = [rs1, rs2] ∧ i.dst = some rd ∧ i.cls = some .mul ∧ writesZ i = false) ∧
    (∀ i ∈ [Instr.load rd rs1 imm], i.srcs = [rs1] ∧ i.dst = some rd ∧ i.cls = some .mem ∧ writesZ i = false) ∧
    (∀ i ∈ [Instr.ldr rd rs1 rs2], i.srcs = [rs1, rs2] ∧ i.dst = some rd ∧ i.cls = some .mem ∧ writesZ i = false) ∧
    (∀ i ∈ [Instr.store rs1 rs2 imm], i.srcs = [rs1, rs2] ∧ i.dst = none ∧ i.cls = some .mem ∧ writesZ i = false) ∧
    (∀ i ∈ [Instr.str rs1 rs2 rs3], i.srcs = [rs1, rs2, rs3] ∧ i.dst = none ∧ i.cls = some .mem ∧ writesZ i = false) ∧
    (∀ i ∈ [Instr.jump rs1 imm], i.srcs = [rs1] ∧ i.dst = none ∧ i.cls = some .branch ∧ writesZ i = false) ∧
    (∀ i ∈ [Instr.jal rd rs1 imm], i.srcs = [rs1] ∧ i.dst = some rd ∧ i.cls = some .branch ∧ writesZ i = false) ∧
    (∀ i ∈ [Instr.bz imm, .bnz imm], i.srcs = [] ∧ i.dst = none ∧ i.cls = some .branch ∧ writesZ i = false) ∧
    (∀ i ∈ [Instr.nop, .halt], i.srcs = [] ∧ i.dst = none ∧ i.cls = none ∧ writesZ i = false) ∧
    (∀ i : Instr, (i.ctl = true ↔ i.cls = some .branch) ∧ (i.isMem = true ↔ i.cls = some .mem) ∧
      (i.producer = true ↔ ∃ r, i.dst = some r))

/-- After reset, for the default parameters: 48 free physical slots with value 0 and no result; 16 unmapped entries in
both rename tables; 24 free issue-queue slots; 64 empty ROB entries with head, tail and count 0; every latch empty; pc
= 4000; Z, branch_pending, redirect, halted and halt_retired 0; no fault; every data cell 0. XLEN is 32, INSN_BYTES 4,
DMEM_SIZE 4096. These values are the decisions of the spec (D2 to D4, D6, D8, D35, D46). That the store is empty is
log 7. [70_reset_and_hazards.md section 1 (R291; D3, D6, D8, D35, D46); notes/assumptions/7.md] -/
def Obligations.ResetValues : Prop :=
  (∀ p, p < 48 → State.reset.prf[p]? = some ⟨0, false, false⟩) ∧ State.reset.prf.length = 48 ∧
  (∀ r, r < 16 → State.reset.srat[r]? = some none ∧ State.reset.rrat[r]? = some none) ∧
  State.reset.srat.length = 16 ∧ State.reset.rrat.length = 16 ∧
  (∀ k, k < 24 → State.reset.iq[k]? = some none) ∧ State.reset.iq.length = 24 ∧
  (∀ k, k < 64 → State.reset.rob[k]? = some none) ∧ State.reset.rob.length = 64 ∧
  State.reset.head = 0 ∧ State.reset.tail = 0 ∧ State.reset.count = 0 ∧
  State.reset.lf = none ∧ State.reset.ld = none ∧ State.reset.lInt = none ∧ State.reset.lMul1 = none ∧
  State.reset.lMul2 = none ∧ State.reset.lMul3 = none ∧ State.reset.lBru1 = none ∧ State.reset.lBru2 = none ∧
  State.reset.lMem1 = none ∧ State.reset.memPass = [] ∧ State.reset.lAcc = none ∧
  State.reset.pc = 4000 ∧ State.reset.z = false ∧ State.reset.branchPending = false ∧ State.reset.redirect = false ∧
  State.reset.halted = false ∧ State.reset.haltRetired = false ∧ State.reset.fault = none ∧
  State.reset.imem = [] ∧ State.reset.xlen = 32 ∧ State.reset.insnBytes = 4 ∧ State.reset.dmemSize = 4096 ∧
  State.reset.basePc = 4000 ∧
  (∀ a, Mem.read State.reset.dmem a = 0)

/-- Preloading logical register r, below both N_ARCH and N_PHYS, makes its architectural value the preloaded word, backed
by physical slot r with has_result and busy set and mapped in both tables; a register q other than r whose retirement
mapping is not slot r keeps its architectural value. The identity mapping is decision D9 of the spec.
[70_reset_and_hazards.md section 2 (R292, D9); 10_state.md section 1 (R21)] -/
def Obligations.PreloadedRegisterHoldsItsValue : Prop :=
  ∀ (s : State) (r : Nat) (v : Word), r < s.rrat.length → r < s.srat.length → r < s.prf.length →
    (s.preloadReg r v).archReg r = some v ∧
    (s.preloadReg r v).prf[r]? = some ⟨v, true, true⟩ ∧
    (s.preloadReg r v).srat[r]? = some (some r) ∧ (s.preloadReg r v).rrat[r]? = some (some r) ∧
    (∀ q, q ≠ r → s.rrat[q]? ≠ some (some r) → (s.preloadReg r v).archReg q = s.archReg q)

/-- For every running state with nothing in flight behind the front end whose decode latch holds (pc, i): if exec of i, at
the state with the two per-cycle bits cleared, answers t, then the step answers t itself where t records a fault, and
otherwise the fetch stage and the end of the cycle applied to t. [40_cycle_fetch_dispatch.md sections 1, 3 (R101,
R103, R108); notes/assumptions/3.md] -/
def Obligations.QuietStepRunsDecodedInstruction : Prop :=
  ∀ (s t : State) (d : Fetched), s.Running → s.BackEndIdle → s.ld = some d →
    exec d.insn { s with redirect := false, haltRetired := false } = .next t →
    step s = .next (if t.fault.isSome then t else endCycle (fetchStage t))

/-- For every running state: if the stages before issue (start, commit, memory, branch, multiply, integer) leave s1
without a fault, the decode latch then holds (pc, i), and exec of i at s1 after issue answers t, then the step answers
t itself where t records a fault, and otherwise the fetch stage and the end of the cycle applied to t.
[40_cycle_fetch_dispatch.md sections 1, 3 (R101, R103, R108); notes/assumptions/3.md] -/
def Obligations.StepRunsDecodedInstruction : Prop :=
  ∀ (s s1 t : State) (d : Fetched), s.Running → beforeIssue s = .next s1 → s1.fault = none →
    (issueStage s1).ld = some d → exec d.insn (issueStage s1) = .next t →
    step s = .next (if t.fault.isSome then t else endCycle (fetchStage t))

/-- For each stage of R101 whose work depends on the instruction, with its latch full, the stage is exec of the
instruction of the micro-op in the latch, asked for that stage, with the stage field set back afterwards. A pass of
the commit loop with a valid entry at the head is exec of that entry, after which the loop ends if a ROB reset, a HALT
or a fault occurred and goes on otherwise. [40_cycle_fetch_dispatch.md section 1 (R101); 46_commit.md section 1
(R240); notes/assumptions/3.md] -/
def Obligations.StagesRunTheirInstruction : Prop :=
  (∀ (s : State) (u : IqEntry), s.lInt = some u → integerStage s = settle (exec u.insn { s with stage := .int })) ∧
  (∀ (s : State) (u : IqEntry), s.lMul1 = some u → mulStartStage s = settle (exec u.insn { s with stage := .mul1 })) ∧
  (∀ (s : State) (m : MulOp), s.lMul3 = some m → mulWriteStage s = settle (exec m.entry.insn { s with stage := .mul3 })) ∧
  (∀ (s : State) (u : IqEntry), s.lBru1 = some u → targetStage s = settle (exec u.insn { s with stage := .bru1 })) ∧
  (∀ (s : State) (b : BruOp), s.lBru2 = some b → resolveStage s = settle (exec b.entry.insn { s with stage := .bru2 })) ∧
  (∀ (s : State) (u : IqEntry), s.lMem1 = some u → agenStage s = settle (exec u.insn { s with stage := .mem1 })) ∧
  (∀ (s : State) (m : MemOp), s.lAcc = some m → accessStage s = settle (exec m.entry.insn { s with stage := .access })) ∧
  (∀ (s t : State) (e : RobEntry) (n : Nat), s.headEntry = some e → e.resultValid = true →
    settle (exec e.insn { s with stage := .commit }) = .next t →
    commitLoop (n + 1) s = if t.redirect || t.haltRetired || t.fault.isSome then .next t else commitLoop n t)

/-- For table bits that spell an instruction i: at the reset state with i placed, exec of i answers a next state, and the
step answers that state where it records a fault, and otherwise the fetch stage and the end of the cycle applied to
it. The placing is log 7. [40_cycle_fetch_dispatch.md sections 1, 3 (R101, R108); notes/assumptions/7.md] -/
def Obligations.PlacedInstructionRunsNext : Prop :=
  ∀ (nbits w : Nat) (i : Instr), decodeTableWord nbits w = some i →
    ∃ t, exec i (State.reset.withFetchWord nbits w) = .next t ∧
      step (State.reset.withFetchWord nbits w) = .next (if t.fault.isSome then t else endCycle (fetchStage t))

/-- In every state that records a fault the machine is faulted with that record, not halted and not completed, whatever
else the state holds, and the step stops with the record. In every state with no fault and halted = 1 it is halted and
completed, and the step stops as halted. Otherwise it is running. No meaning of an instruction, at any stage, clears
the bit halted; and after every step the bit halted is set exactly if a HALT retired in its cycle, whether or not the
cycle recorded a fault. That not halted is said of the machine and not of the bit of a HALT that retired in the cycle
of the fault is log 9; how the model writes the absence of a step is log 1 and log 2. [40_cycle_fetch_dispatch.md
section 1 (R103); 10_state.md section 6 (R35, R36); 60_exceptions.md sections 1, 4 (R271, R284); 46_commit.md section
1 (R248); notes/assumptions/1.md; notes/assumptions/2.md; notes/assumptions/9.md] -/
def Obligations.HaltedOrFaultedTakesNoStep : Prop :=
  (∀ (s : State) (f : FaultRecord), s.fault = some f →
    s.status = .faulted f ∧ s.completed = false ∧ step s = .fault (.faulted f)) ∧
  (∀ s : State, s.fault = none → s.halted = true → s.status = .halted ∧ s.completed = true ∧ step s = .fault .halted) ∧
  (∀ s : State, s.fault = none → s.halted = false → s.status = .running ∧ s.completed = false) ∧
  (∀ (i : Instr) (s t : State), exec i s = .next t → s.halted = true → t.halted = true) ∧
  (∀ s t : State, s.stage = .dispatch → step s = .next t → t.halted = t.haltRetired)

/-- For every instruction i at the dispatch stage, with (pc, _) in the decode latch: if a source role of i names a
register r that SRAT leaves unmapped, and every earlier role names a mapped register, exec answers the state with the
fault record (pc, r) and nothing else changed. The fault is decision D10 of the spec. That it is raised whatever
resources are free, so that the sources are checked before the resources, is the model's reading of the words in order
of R108 (log 11); that the answer is a next state with the record is log 1. [40_cycle_fetch_dispatch.md section 3
(R108, R109, D10); 60_exceptions.md section 1 (R271); notes/assumptions/1.md; notes/assumptions/11.md] -/
def Obligations.UnmappedSourceFaults : Prop :=
  ∀ (i : Instr) (s : State) (d : Fetched) (pre post : List Nat) (r : Nat),
    s.stage = .dispatch → s.ld = some d → i.srcs = pre ++ r :: post →
    (∀ q ∈ pre, ∃ p, s.srat[q]? = some (some p)) → s.srat[r]? = some none →
    exec i s = .next { s with fault := some (.unmappedSource d.pc r) }

/-- For every instruction i at the dispatch stage whose sources are all mapped: if the ROB is full, or i is a producer and
every physical slot is busy, or i has a unit, does not bypass and no issue-queue slot is free, then exec answers the
state unchanged. The bypass is taken iff i is a memory instruction, every source slot has a result, and L.MEM1 is
empty. That all resources are checked before any is taken is decision D19 of the spec. [40_cycle_fetch_dispatch.md
section 3 (R110, R111, R115, D19)] -/
def Obligations.DispatchStallsWithoutResources : Prop :=
  ∀ (i : Instr) (s : State) (d : Fetched) (ps : List Nat),
    s.stage = .dispatch → s.ld = some d → i.srcs.map (fun r => s.srat[r]?) = ps.map (fun p => some (some p)) →
    (s.rob.length ≤ s.count ∨
     (i.dst ≠ none ∧ ∀ r ∈ s.prf, r.busy = true) ∨
     (i.cls ≠ none ∧ (∀ e ∈ s.iq, e ≠ none) ∧
       ¬ (i.cls = some .mem ∧ (∀ p ∈ ps, s.physHasResult p = true) ∧ s.lMem1 = none))) →
    exec i s = .next s

/-- For every producer i other than a load (ADD, SUB, ADDL, SUBL, AND, OR, XOR, CMP, MOVC, MUL, JAL) at the dispatch
stage, with its sources mapped, room in the ROB, pd the lowest free physical slot and k the lowest free issue-queue
slot: exec answers the state in which pd is busy with no result and its value unchanged, SRAT[rd] = pd, the ROB entry
at tail is allocated not valid, slot k holds the micro-op, L.D is empty and branch_pending is set if i is JAL; every
other field, and every other element of the tables, is unchanged. [40_cycle_fetch_dispatch.md section 3 (R109 to
R117)] -/
def Obligations.ProducerDispatchCompletes : Prop :=
  ∀ (i : Instr) (s : State) (d : Fetched) (ps : List Nat) (rd : Nat) (pd k : Nat) (r : PhysReg),
    i.dst = some rd → i.cls ≠ some .mem → s.stage = .dispatch → s.ld = some d → i.srcs.map (fun r => s.srat[r]?) = ps.map (fun p => some (some p)) →
    s.count < s.rob.length → s.prf[pd]? = some r → r.busy = false → (∀ q r', q < pd → s.prf[q]? = some r' → r'.busy = true) →
    s.iq[k]? = some none → (∀ j, j < k → s.iq[j]? ≠ some none) →
    exec i s = .next { s with
      prf := s.prf.set pd { r with busy := true, hasResult := false }
      srat := s.srat.set rd (some pd)
      rob := s.rob.set s.tail (some {
        pc := d.pc, insn := i, ps1 := ps[0]?, ps2 := ps[1]?, ps3 := ps[2]?, pd := some pd,
        result := 0, ea := 0, taken := false, resultValid := false, memReady := false, exc := .none })
      tail := (s.tail + 1) % s.rob.length
      count := s.count + 1
      iq := s.iq.set k (some { insn := i, ps1 := ps[0]?, ps2 := ps[1]?, ps3 := ps[2]?, pd := some pd, rob := s.tail })
      branchPending := decide (i.cls = some .branch) || s.branchPending
      ld := none }

/-- For LOAD and LDR at the dispatch stage, with the sources mapped, room in the ROB and pd the lowest free physical slot:
if every source slot has a result and L.MEM1 is empty, the micro-op goes into L.MEM1 and the ROB entry is memory-
ready; otherwise, with k the lowest free issue-queue slot, it goes into slot k and the entry is not memory-ready. In
both cases pd is claimed and SRAT[rd] = pd, the entry at tail is allocated not valid, L.D is empty, and everything
else is unchanged. What happens with L.MEM1 full is decision D20 of the spec. [40_cycle_fetch_dispatch.md section 3
(R109 to R117; D20)] -/
def Obligations.LoadDispatchCompletes : Prop :=
  ∀ (i : Instr) (s : State) (d : Fetched) (ps : List Nat) (rd : Nat) (pd : Nat) (r : PhysReg),
    i.dst = some rd → i.cls = some .mem → s.stage = .dispatch → s.ld = some d → i.srcs.map (fun r => s.srat[r]?) = ps.map (fun p => some (some p)) →
    s.count < s.rob.length → s.prf[pd]? = some r → r.busy = false → (∀ q r', q < pd → s.prf[q]? = some r' → r'.busy = true) →
    (((∀ p ∈ ps, s.physHasResult p = true) → s.lMem1 = none →
      exec i s = .next { s with
        prf := s.prf.set pd { r with busy := true, hasResult := false }
        srat := s.srat.set rd (some pd)
        rob := s.rob.set s.tail (some {
        pc := d.pc, insn := i, ps1 := ps[0]?, ps2 := ps[1]?, ps3 := ps[2]?, pd := some pd,
        result := 0, ea := 0, taken := false, resultValid := false, memReady := true, exc := .none })
        tail := (s.tail + 1) % s.rob.length
        count := s.count + 1
        lMem1 := (some { insn := i, ps1 := ps[0]?, ps2 := ps[1]?, ps3 := ps[2]?, pd := some pd, rob := s.tail })
        ld := none }) ∧
     (∀ k, ¬ ((∀ p ∈ ps, s.physHasResult p = true) ∧ s.lMem1 = none) → s.iq[k]? = some none → (∀ j, j < k → s.iq[j]? ≠ some none) →
      exec i s = .next { s with
        prf := s.prf.set pd { r with busy := true, hasResult := false }
        srat := s.srat.set rd (some pd)
        rob := s.rob.set s.tail (some {
        pc := d.pc, insn := i, ps1 := ps[0]?, ps2 := ps[1]?, ps3 := ps[2]?, pd := some pd,
        result := 0, ea := 0, taken := false, resultValid := false, memReady := false, exc := .none })
        tail := (s.tail + 1) % s.rob.length
        count := s.count + 1
        iq := s.iq.set k (some { insn := i, ps1 := ps[0]?, ps2 := ps[1]?, ps3 := ps[2]?, pd := some pd, rob := s.tail })
        ld := none }))

/-- For STORE and STR at the dispatch stage, with the sources mapped and room in the ROB: if every source slot, the data
among them, has a result and L.MEM1 is empty, the micro-op goes into L.MEM1 and the ROB entry is memory-ready;
otherwise, with k the lowest free issue-queue slot, it goes into slot k and the entry is not memory-ready. The entry
at tail is allocated not valid, L.D is empty, and everything else, the physical registers, the rename tables and
memory among it, is unchanged. What happens with L.MEM1 full is decision D20 of the spec. [40_cycle_fetch_dispatch.md
section 3 (R109 to R117; D20)] -/
def Obligations.StoreDispatchCompletes : Prop :=
  ∀ (i : Instr) (s : State) (d : Fetched) (ps : List Nat),
    i.dst = none → i.cls = some .mem → s.stage = .dispatch → s.ld = some d → i.srcs.map (fun r => s.srat[r]?) = ps.map (fun p => some (some p)) → s.count < s.rob.length →
    (((∀ p ∈ ps, s.physHasResult p = true) → s.lMem1 = none →
      exec i s = .next { s with
        rob := s.rob.set s.tail (some {
        pc := d.pc, insn := i, ps1 := ps[0]?, ps2 := ps[1]?, ps3 := ps[2]?, pd := none,
        result := 0, ea := 0, taken := false, resultValid := false, memReady := true, exc := .none })
        tail := (s.tail + 1) % s.rob.length
        count := s.count + 1
        lMem1 := (some { insn := i, ps1 := ps[0]?, ps2 := ps[1]?, ps3 := ps[2]?, pd := none, rob := s.tail })
        ld := none }) ∧
     (∀ k, ¬ ((∀ p ∈ ps, s.physHasResult p = true) ∧ s.lMem1 = none) → s.iq[k]? = some none → (∀ j, j < k → s.iq[j]? ≠ some none) →
      exec i s = .next { s with
        rob := s.rob.set s.tail (some {
        pc := d.pc, insn := i, ps1 := ps[0]?, ps2 := ps[1]?, ps3 := ps[2]?, pd := none,
        result := 0, ea := 0, taken := false, resultValid := false, memReady := false, exc := .none })
        tail := (s.tail + 1) % s.rob.length
        count := s.count + 1
        iq := s.iq.set k (some { insn := i, ps1 := ps[0]?, ps2 := ps[1]?, ps3 := ps[2]?, pd := none, rob := s.tail })
        ld := none }))

/-- For JUMP, BZ and BNZ at the dispatch stage, with the source (of JUMP) mapped, room in the ROB and k the lowest free
issue-queue slot: exec answers the state in which the entry at tail is allocated not valid, slot k holds the micro-op,
branch_pending = 1 and L.D is empty, everything else unchanged. That JUMP takes no register is C2.
[40_cycle_fetch_dispatch.md section 3 (R110, R113, R114, R116, R117); 90_conflicts.md C2] -/
def Obligations.JumpAndBranchDispatchCompletes : Prop :=
  ∀ (i : Instr) (s : State) (d : Fetched) (ps : List Nat) (k : Nat),
    i.dst = none → i.cls = some .branch → s.stage = .dispatch → s.ld = some d → i.srcs.map (fun r => s.srat[r]?) = ps.map (fun p => some (some p)) → s.count < s.rob.length →
    s.iq[k]? = some none → (∀ j, j < k → s.iq[j]? ≠ some none) →
    exec i s = .next { s with
      rob := s.rob.set s.tail (some {
        pc := d.pc, insn := i, ps1 := ps[0]?, ps2 := ps[1]?, ps3 := ps[2]?, pd := none,
        result := 0, ea := 0, taken := false, resultValid := false, memReady := false, exc := .none })
      tail := (s.tail + 1) % s.rob.length
      count := s.count + 1
      iq := s.iq.set k (some { insn := i, ps1 := ps[0]?, ps2 := ps[1]?, ps3 := ps[2]?, pd := none, rob := s.tail })
      branchPending := true
      ld := none }

/-- For NOP and HALT at the dispatch stage with room in the ROB: exec answers the state in which the entry at tail is
allocated with result_valid = 1 and L.D is empty; no issue-queue slot, no physical register, everything else
unchanged. That the entry is valid at dispatch is decision D21 for NOP and D22 for HALT. [40_cycle_fetch_dispatch.md
section 3 (R113, R118, R119; D21, D22)] -/
def Obligations.NopAndHaltDispatchCompletes : Prop :=
  ∀ (i : Instr) (s : State) (d : Fetched), (i = .nop ∨ i = .halt) →
    s.stage = .dispatch → s.ld = some d → s.count < s.rob.length →
    exec i s = .next { s with
      rob := s.rob.set s.tail (some {
        pc := d.pc, insn := i, ps1 := none, ps2 := none, ps3 := none, pd := none,
        result := 0, ea := 0, taken := false, resultValid := true, memReady := false, exc := .none })
      tail := (s.tail + 1) % s.rob.length
      count := s.count + 1
      ld := none }

/-- A record with opcode 0 and the fields of format RRR decodes to it. At the integer stage with the micro-op in L.INT,
exec answers the state in which the ROB entry of the micro-op has result a + b, the wrapping sum of the two source
slots, and is valid, and L.INT is empty. Z becomes 1 iff the result is 0, and everything else is unchanged. At commit,
exec retires the result of the head entry into rd and pops the entry. That the source slots are read at this stage is
decision D29 (log 10). [42_integer.md sections 1, 2 (R161, R160; D29); 46_commit.md section 1 (R242); 30_encoding.md
section 2; notes/assumptions/10.md] -/
def Obligations.AddMeaning : Prop :=
  ∀ (rd rs1 rs2 : Nat),
    (∀ n w rs3 imm, rd < n → rs1 < n → rs2 < n → decode n w ⟨0, some rd, some rs1, some rs2, rs3, imm⟩ = .ok (.add rd rs1 rs2)) ∧
    (∀ (s : State) (u : IqEntry) (p1 p2 : Nat) (r1 r2 : PhysReg), s.stage = .int → s.lInt = some u →
      u.ps1 = some p1 → u.ps2 = some p2 → s.prf[p1]? = some r1 → s.prf[p2]? = some r2 →
      exec (.add rd rs1 rs2) s = .next { s with
        rob := s.rob.modify u.rob (Option.map (fun e => { e with result := wrap s.xlen (signed s.xlen r1.value + signed s.xlen r2.value), resultValid := true }))
        z := decide (wrap s.xlen (signed s.xlen r1.value + signed s.xlen r2.value) = 0)
        lInt := none }) ∧
    (∀ (s : State) (e : RobEntry) (pd : Nat), s.stage = .commit → s.count ≠ 0 → s.rob[s.head]? = some (some e) → e.pd = some pd →
      exec (.add rd rs1 rs2) s = .next (s.retire e.result rd pd).pop)

/-- A record with opcode 1 and the fields of format RRR decodes to it. At the integer stage with the micro-op in L.INT,
exec answers the state in which the ROB entry of the micro-op has result a - b, the wrapping difference of the two
source slots, and is valid, and L.INT is empty. Z becomes 1 iff the result is 0, and everything else is unchanged. At
commit, exec retires the result of the head entry into rd and pops the entry. That the source slots are read at this
stage is decision D29 (log 10). [42_integer.md sections 1, 2 (R162, R160; D29); 46_commit.md section 1 (R242);
30_encoding.md section 2; notes/assumptions/10.md] -/
def Obligations.SubMeaning : Prop :=
  ∀ (rd rs1 rs2 : Nat),
    (∀ n w rs3 imm, rd < n → rs1 < n → rs2 < n → decode n w ⟨1, some rd, some rs1, some rs2, rs3, imm⟩ = .ok (.sub rd rs1 rs2)) ∧
    (∀ (s : State) (u : IqEntry) (p1 p2 : Nat) (r1 r2 : PhysReg), s.stage = .int → s.lInt = some u →
      u.ps1 = some p1 → u.ps2 = some p2 → s.prf[p1]? = some r1 → s.prf[p2]? = some r2 →
      exec (.sub rd rs1 rs2) s = .next { s with
        rob := s.rob.modify u.rob (Option.map (fun e => { e with result := wrap s.xlen (signed s.xlen r1.value - signed s.xlen r2.value), resultValid := true }))
        z := decide (wrap s.xlen (signed s.xlen r1.value - signed s.xlen r2.value) = 0)
        lInt := none }) ∧
    (∀ (s : State) (e : RobEntry) (pd : Nat), s.stage = .commit → s.count ≠ 0 → s.rob[s.head]? = some (some e) → e.pd = some pd →
      exec (.sub rd rs1 rs2) s = .next (s.retire e.result rd pd).pop)

/-- A record with opcode 2 and the fields of format RRI decodes to it. At the integer stage with the micro-op in L.INT,
exec answers the state in which the ROB entry of the micro-op has result a + imm, with the immediate used unchanged,
and is valid, and L.INT is empty. Z becomes 1 iff the result is 0, and everything else is unchanged. At commit, exec
retires the result of the head entry into rd and pops the entry. That the source slots are read at this stage is
decision D29 (log 10). The operand format is decision D14. [42_integer.md sections 1, 2 (R163, R160; D29, D14);
46_commit.md section 1 (R242); 30_encoding.md section 2; notes/assumptions/10.md] -/
def Obligations.AddlMeaning : Prop :=
  ∀ (rd rs1 : Nat) (imm : Word),
    (∀ n w rs2 rs3, rd < n → rs1 < n → isWord w imm → decode n w ⟨2, some rd, some rs1, rs2, rs3, imm⟩ = .ok (.addl rd rs1 imm)) ∧
    (∀ (s : State) (u : IqEntry) (p1 : Nat) (r1 : PhysReg), s.stage = .int → s.lInt = some u →
      u.ps1 = some p1 → s.prf[p1]? = some r1 →
      exec (.addl rd rs1 imm) s = .next { s with
        rob := s.rob.modify u.rob (Option.map (fun e => { e with result := wrap s.xlen (signed s.xlen r1.value + signed s.xlen imm), resultValid := true }))
        z := decide (wrap s.xlen (signed s.xlen r1.value + signed s.xlen imm) = 0)
        lInt := none }) ∧
    (∀ (s : State) (e : RobEntry) (pd : Nat), s.stage = .commit → s.count ≠ 0 → s.rob[s.head]? = some (some e) → e.pd = some pd →
      exec (.addl rd rs1 imm) s = .next (s.retire e.result rd pd).pop)

/-- A record with opcode 3 and the fields of format RRI decodes to it. At the integer stage with the micro-op in L.INT,
exec answers the state in which the ROB entry of the micro-op has result a - imm, with the immediate used unchanged,
and is valid, and L.INT is empty. Z becomes 1 iff the result is 0, and everything else is unchanged. At commit, exec
retires the result of the head entry into rd and pops the entry. That the source slots are read at this stage is
decision D29 (log 10). The operand format is decision D14. [42_integer.md sections 1, 2 (R164, R160; D29, D14);
46_commit.md section 1 (R242); 30_encoding.md section 2; notes/assumptions/10.md] -/
def Obligations.SublMeaning : Prop :=
  ∀ (rd rs1 : Nat) (imm : Word),
    (∀ n w rs2 rs3, rd < n → rs1 < n → isWord w imm → decode n w ⟨3, some rd, some rs1, rs2, rs3, imm⟩ = .ok (.subl rd rs1 imm)) ∧
    (∀ (s : State) (u : IqEntry) (p1 : Nat) (r1 : PhysReg), s.stage = .int → s.lInt = some u →
      u.ps1 = some p1 → s.prf[p1]? = some r1 →
      exec (.subl rd rs1 imm) s = .next { s with
        rob := s.rob.modify u.rob (Option.map (fun e => { e with result := wrap s.xlen (signed s.xlen r1.value - signed s.xlen imm), resultValid := true }))
        z := decide (wrap s.xlen (signed s.xlen r1.value - signed s.xlen imm) = 0)
        lInt := none }) ∧
    (∀ (s : State) (e : RobEntry) (pd : Nat), s.stage = .commit → s.count ≠ 0 → s.rob[s.head]? = some (some e) → e.pd = some pd →
      exec (.subl rd rs1 imm) s = .next (s.retire e.result rd pd).pop)

/-- A record with opcode 4 and the fields of format RRR decodes to it. At the integer stage with the micro-op in L.INT,
exec answers the state in which the ROB entry of the micro-op has result the bitwise AND of the two source slots, and
is valid, and L.INT is empty. Z and everything else are unchanged. At commit, exec retires the result of the head
entry into rd and pops the entry. That the source slots are read at this stage is decision D29 (log 10). That AND, OR
and XOR commit so is the resolution C3. [42_integer.md sections 1, 2 (R165, R160; D29); 46_commit.md section 1 (R242);
30_encoding.md section 2; notes/assumptions/10.md; 90_conflicts.md C3] -/
def Obligations.AndMeaning : Prop :=
  ∀ (rd rs1 rs2 : Nat),
    (∀ n w rs3 imm, rd < n → rs1 < n → rs2 < n → decode n w ⟨4, some rd, some rs1, some rs2, rs3, imm⟩ = .ok (.and rd rs1 rs2)) ∧
    (∀ (s : State) (u : IqEntry) (p1 p2 : Nat) (r1 r2 : PhysReg), s.stage = .int → s.lInt = some u →
      u.ps1 = some p1 → u.ps2 = some p2 → s.prf[p1]? = some r1 → s.prf[p2]? = some r2 →
      exec (.and rd rs1 rs2) s = .next { s with
        rob := s.rob.modify u.rob (Option.map (fun e => { e with result := r1.value &&& r2.value, resultValid := true }))
        lInt := none }) ∧
    (∀ (s : State) (e : RobEntry) (pd : Nat), s.stage = .commit → s.count ≠ 0 → s.rob[s.head]? = some (some e) → e.pd = some pd →
      exec (.and rd rs1 rs2) s = .next (s.retire e.result rd pd).pop)

/-- A record with opcode 5 and the fields of format RRR decodes to it. At the integer stage with the micro-op in L.INT,
exec answers the state in which the ROB entry of the micro-op has result the bitwise OR of the two source slots, and
is valid, and L.INT is empty. Z and everything else are unchanged. At commit, exec retires the result of the head
entry into rd and pops the entry. That the source slots are read at this stage is decision D29 (log 10). That AND, OR
and XOR commit so is the resolution C3. [42_integer.md sections 1, 2 (R166, R160; D29); 46_commit.md section 1 (R242);
30_encoding.md section 2; notes/assumptions/10.md; 90_conflicts.md C3] -/
def Obligations.OrMeaning : Prop :=
  ∀ (rd rs1 rs2 : Nat),
    (∀ n w rs3 imm, rd < n → rs1 < n → rs2 < n → decode n w ⟨5, some rd, some rs1, some rs2, rs3, imm⟩ = .ok (.or rd rs1 rs2)) ∧
    (∀ (s : State) (u : IqEntry) (p1 p2 : Nat) (r1 r2 : PhysReg), s.stage = .int → s.lInt = some u →
      u.ps1 = some p1 → u.ps2 = some p2 → s.prf[p1]? = some r1 → s.prf[p2]? = some r2 →
      exec (.or rd rs1 rs2) s = .next { s with
        rob := s.rob.modify u.rob (Option.map (fun e => { e with result := r1.value ||| r2.value, resultValid := true }))
        lInt := none }) ∧
    (∀ (s : State) (e : RobEntry) (pd : Nat), s.stage = .commit → s.count ≠ 0 → s.rob[s.head]? = some (some e) → e.pd = some pd →
      exec (.or rd rs1 rs2) s = .next (s.retire e.result rd pd).pop)

/-- A record with opcode 6 and the fields of format RRR decodes to it. At the integer stage with the micro-op in L.INT,
exec answers the state in which the ROB entry of the micro-op has result the bitwise exclusive OR of the two source
slots, and is valid, and L.INT is empty. Z and everything else are unchanged. At commit, exec retires the result of
the head entry into rd and pops the entry. That the source slots are read at this stage is decision D29 (log 10). That
AND, OR and XOR commit so is the resolution C3. [42_integer.md sections 1, 2 (R167, R160; D29); 46_commit.md section 1
(R242); 30_encoding.md section 2; notes/assumptions/10.md; 90_conflicts.md C3] -/
def Obligations.XorMeaning : Prop :=
  ∀ (rd rs1 rs2 : Nat),
    (∀ n w rs3 imm, rd < n → rs1 < n → rs2 < n → decode n w ⟨6, some rd, some rs1, some rs2, rs3, imm⟩ = .ok (.xor rd rs1 rs2)) ∧
    (∀ (s : State) (u : IqEntry) (p1 p2 : Nat) (r1 r2 : PhysReg), s.stage = .int → s.lInt = some u →
      u.ps1 = some p1 → u.ps2 = some p2 → s.prf[p1]? = some r1 → s.prf[p2]? = some r2 →
      exec (.xor rd rs1 rs2) s = .next { s with
        rob := s.rob.modify u.rob (Option.map (fun e => { e with result := r1.value ^^^ r2.value, resultValid := true }))
        lInt := none }) ∧
    (∀ (s : State) (e : RobEntry) (pd : Nat), s.stage = .commit → s.count ≠ 0 → s.rob[s.head]? = some (some e) → e.pd = some pd →
      exec (.xor rd rs1 rs2) s = .next (s.retire e.result rd pd).pop)

/-- A record with opcode 8 and the fields of format RRR decodes to it. At the integer stage with the micro-op in L.INT,
exec answers the state in which the ROB entry of the micro-op has result a - b, the wrapping difference of the two
source slots, and is valid, and L.INT is empty. Z becomes 1 iff the result is 0, and everything else is unchanged. At
commit, exec retires the result of the head entry into rd and pops the entry. That the source slots are read at this
stage is decision D29 (log 10). That CMP writes the difference to rd is decision D15. [42_integer.md sections 1, 2
(R168, R160; D29, D15); 46_commit.md section 1 (R242); 30_encoding.md section 2; notes/assumptions/10.md] -/
def Obligations.CmpMeaning : Prop :=
  ∀ (rd rs1 rs2 : Nat),
    (∀ n w rs3 imm, rd < n → rs1 < n → rs2 < n → decode n w ⟨8, some rd, some rs1, some rs2, rs3, imm⟩ = .ok (.cmp rd rs1 rs2)) ∧
    (∀ (s : State) (u : IqEntry) (p1 p2 : Nat) (r1 r2 : PhysReg), s.stage = .int → s.lInt = some u →
      u.ps1 = some p1 → u.ps2 = some p2 → s.prf[p1]? = some r1 → s.prf[p2]? = some r2 →
      exec (.cmp rd rs1 rs2) s = .next { s with
        rob := s.rob.modify u.rob (Option.map (fun e => { e with result := wrap s.xlen (signed s.xlen r1.value - signed s.xlen r2.value), resultValid := true }))
        z := decide (wrap s.xlen (signed s.xlen r1.value - signed s.xlen r2.value) = 0)
        lInt := none }) ∧
    (∀ (s : State) (e : RobEntry) (pd : Nat), s.stage = .commit → s.count ≠ 0 → s.rob[s.head]? = some (some e) → e.pd = some pd →
      exec (.cmp rd rs1 rs2) s = .next (s.retire e.result rd pd).pop)

/-- A record with opcode 9 and the fields of format RI decodes to it. At the integer stage with the micro-op in L.INT,
exec answers the state in which the ROB entry of the micro-op has result imm, and is valid, and L.INT is empty. Z and
everything else are unchanged. At commit, exec retires the result of the head entry into rd and pops the entry. That
the source slots are read at this stage is decision D29 (log 10). [42_integer.md sections 1, 2 (R169, R160; D29);
46_commit.md section 1 (R242); 30_encoding.md section 2; notes/assumptions/10.md] -/
def Obligations.MovcMeaning : Prop :=
  ∀ (rd : Nat) (imm : Word),
    (∀ n w rs1 rs2 rs3, rd < n → isWord w imm → decode n w ⟨9, some rd, rs1, rs2, rs3, imm⟩ = .ok (.movc rd imm)) ∧
    (∀ (s : State) (u : IqEntry), s.stage = .int → s.lInt = some u →
      exec (.movc rd imm) s = .next { s with
        rob := s.rob.modify u.rob (Option.map (fun e => { e with result := imm, resultValid := true }))
        lInt := none }) ∧
    (∀ (s : State) (e : RobEntry) (pd : Nat), s.stage = .commit → s.count ≠ 0 → s.rob[s.head]? = some (some e) → e.pd = some pd →
      exec (.movc rd imm) s = .next (s.retire e.result rd pd).pop)

/-- At MUL1 with the micro-op u in L.MUL1, exec of MUL answers the state in which L.MUL2 holds u and the low XLEN bits of
the product of the two source slots and L.MUL1 is empty. The MUL2 stage moves the content of L.MUL2, a micro-op or
nothing, to L.MUL3 unchanged and empties L.MUL2. At MUL3 with (u, prod) in L.MUL3, exec of MUL answers the state in
which the ROB entry of u has result prod and is valid and L.MUL3 is empty. Nothing else changes. With L.MUL1 empty
MUL1, with L.MUL3 empty MUL3, and with both L.MUL2 and L.MUL3 empty MUL2 leaves the state as it is. A record with
opcode 7 and format RRR decodes to MUL, and at commit exec retires the result into rd and pops the entry. That the
source slots are read at MUL1 is decision D29 (log 10). [43_multiply.md sections 1, 2 (R190 to R193; D29);
46_commit.md section 1 (R242); 30_encoding.md section 2; notes/assumptions/10.md] -/
def Obligations.MulMeaning : Prop :=
  ∀ (rd rs1 rs2 : Nat),
    (∀ n w rs3 imm, rd < n → rs1 < n → rs2 < n → decode n w ⟨7, some rd, some rs1, some rs2, rs3, imm⟩ = .ok (.mul rd rs1 rs2)) ∧
    (∀ (s : State) (u : IqEntry) (p1 p2 : Nat) (r1 r2 : PhysReg), s.stage = .mul1 → s.lMul1 = some u →
      u.ps1 = some p1 → u.ps2 = some p2 → s.prf[p1]? = some r1 → s.prf[p2]? = some r2 →
      exec (.mul rd rs1 rs2) s = .next { s with
        lMul2 := some { entry := u, prod := wrap s.xlen (signed s.xlen r1.value * signed s.xlen r2.value) }
        lMul1 := none }) ∧
    (∀ s : State, mulPassStage s = { s with lMul3 := s.lMul2, lMul2 := none }) ∧
    (∀ (s : State) (m : MulOp), s.stage = .mul3 → s.lMul3 = some m →
      exec (.mul rd rs1 rs2) s = .next { s with
        rob := s.rob.modify m.entry.rob (Option.map (fun e => { e with result := m.prod, resultValid := true }))
        lMul3 := none }) ∧
    (∀ s : State, (s.lMul1 = none → mulStartStage s = .next s) ∧ (s.lMul3 = none → mulWriteStage s = .next s) ∧
      (s.lMul2 = none → s.lMul3 = none → mulPassStage s = s)) ∧
    (∀ (s : State) (e : RobEntry) (pd : Nat), s.stage = .commit → s.count ≠ 0 → s.rob[s.head]? = some (some e) → e.pd = some pd →
      exec (.mul rd rs1 rs2) s = .next (s.retire e.result rd pd).pop)

/-- A record with opcode 14 and format JI decodes to JUMP. At BRU1 the target is the source value plus the immediate and
the link is 0. At BRU2 it is always taken: the ROB entry gets link, target, taken = 1 and is valid, the front-end
latches and every issue-queue slot are emptied, pc = target, branch_pending = 0 and redirect = 1. At commit the entry
is popped and the ROB reset to its target; no register is written. Nothing else changes at BRU1 and BRU2.
[44_branch.md sections 1, 2 (R204, R200 to R203); 46_commit.md section 1 (R246); 30_encoding.md section 2] -/
def Obligations.JumpMeaning : Prop :=
  ∀ (rs1 : Nat) (imm : Word),
    (∀ n w rd rs2 rs3, rs1 < n → isWord w imm → decode n w ⟨14, rd, some rs1, rs2, rs3, imm⟩ = .ok (.jump rs1 imm)) ∧
    (∀ (s : State) (u : IqEntry) (e : RobEntry) (p1 : Nat) (r1 : PhysReg), s.stage = .bru1 → s.lBru1 = some u →
      s.rob[u.rob]? = some (some e) → u.ps1 = some p1 → s.prf[p1]? = some r1 →
      exec (.jump rs1 imm) s = .next { s with lBru2 := some { entry := u, target := wrap s.xlen (signed s.xlen r1.value + signed s.xlen imm), link := 0 }, lBru1 := none }) ∧
    (∀ (s : State) (b : BruOp), s.stage = .bru2 → s.lBru2 = some b →
      exec (.jump rs1 imm) s = .next { s with
        rob := s.rob.modify b.entry.rob (Option.map (fun e =>
          { e with result := b.link, ea := b.target, taken := true, resultValid := true }))
        lBru2 := none, lf := none, ld := none, iq := s.iq.map (fun _ => none), pc := b.target
        branchPending := false, redirect := true }) ∧
    (∀ (s : State) (e : RobEntry), s.stage = .commit → s.count ≠ 0 → s.rob[s.head]? = some (some e) →
      exec (.jump rs1 imm) s = .next (s.pop.robReset e.ea))

/-- A record with opcode 15 and format RRI decodes to JAL. At BRU1 the target is the source value plus the immediate and
the link is the address of the instruction plus INSN_BYTES. At BRU2 it is always taken: the ROB entry gets link,
target, taken = 1 and is valid, the front-end latches and every issue-queue slot are emptied, pc = target,
branch_pending = 0 and redirect = 1. At commit the link is retired into rd, the entry is popped and the ROB reset to
its target. Nothing else changes at BRU1 and BRU2. [44_branch.md sections 1, 2 (R205, R200 to R203); 46_commit.md
section 1 (R245); 30_encoding.md section 2; 92_eei_decisions.md D43] -/
def Obligations.JalMeaning : Prop :=
  ∀ (rd rs1 : Nat) (imm : Word),
    (∀ n w rs2 rs3, rd < n → rs1 < n → isWord w imm → decode n w ⟨15, some rd, some rs1, rs2, rs3, imm⟩ = .ok (.jal rd rs1 imm)) ∧
    (∀ (s : State) (u : IqEntry) (e : RobEntry) (p1 : Nat) (r1 : PhysReg), s.stage = .bru1 → s.lBru1 = some u →
      s.rob[u.rob]? = some (some e) → u.ps1 = some p1 → s.prf[p1]? = some r1 →
      exec (.jal rd rs1 imm) s = .next { s with lBru2 := some { entry := u, target := wrap s.xlen (signed s.xlen r1.value + signed s.xlen imm), link := wrap s.xlen (e.pc + s.insnBytes) }, lBru1 := none }) ∧
    (∀ (s : State) (b : BruOp), s.stage = .bru2 → s.lBru2 = some b →
      exec (.jal rd rs1 imm) s = .next { s with
        rob := s.rob.modify b.entry.rob (Option.map (fun e =>
          { e with result := b.link, ea := b.target, taken := true, resultValid := true }))
        lBru2 := none, lf := none, ld := none, iq := s.iq.map (fun _ => none), pc := b.target
        branchPending := false, redirect := true }) ∧
    (∀ (s : State) (e : RobEntry) (pd : Nat), s.stage = .commit → s.count ≠ 0 → s.rob[s.head]? = some (some e) → e.pd = some pd →
      exec (.jal rd rs1 imm) s = .next ((s.retire e.result rd pd).pop.robReset e.ea))

/-- A record with opcode 16 and format I decodes to it. At BRU1 the target is the address of the instruction plus the
immediate and the link is 0. At BRU2 with Z = 1 it is taken: the ROB entry records link, target and taken = 1 and is
valid, the front-end latches and every issue-queue slot are emptied and pc = target; otherwise the entry records taken
= 0 and the front end and pc stay. In both cases branch_pending = 0 and redirect = 1 and nothing else changes. At
commit the entry is popped, and the ROB is reset to its target exactly if the recorded outcome is taken. The target
form and the recorded outcome are decisions D16 and D27. [44_branch.md sections 1, 2 (R206, R200 to R203);
46_commit.md section 1 (R244); 30_encoding.md section 2; 92_eei_decisions.md D16, D27] -/
def Obligations.BzMeaning : Prop :=
  ∀ (imm : Word),
    (∀ n w rd rs1 rs2 rs3, isWord w imm → decode n w ⟨16, rd, rs1, rs2, rs3, imm⟩ = .ok (.bz imm)) ∧
    (∀ (s : State) (u : IqEntry) (e : RobEntry), s.stage = .bru1 → s.lBru1 = some u → s.rob[u.rob]? = some (some e) →
      exec (.bz imm) s = .next { s with lBru2 := some { entry := u, target := wrap s.xlen (signed s.xlen e.pc + signed s.xlen imm), link := 0 }, lBru1 := none }) ∧
    (∀ (s : State) (b : BruOp), s.stage = .bru2 → s.lBru2 = some b → s.z = true →
      exec (.bz imm) s = .next { s with
        rob := s.rob.modify b.entry.rob (Option.map (fun e =>
          { e with result := b.link, ea := b.target, taken := true, resultValid := true }))
        lBru2 := none, lf := none, ld := none, iq := s.iq.map (fun _ => none), pc := b.target
        branchPending := false, redirect := true }) ∧
    (∀ (s : State) (b : BruOp), s.stage = .bru2 → s.lBru2 = some b → s.z = false →
      exec (.bz imm) s = .next { s with
        rob := s.rob.modify b.entry.rob (Option.map (fun e =>
          { e with result := b.link, ea := b.target, taken := false, resultValid := true }))
        lBru2 := none, branchPending := false, redirect := true }) ∧
    (∀ (s : State) (e : RobEntry), s.stage = .commit → s.count ≠ 0 → s.rob[s.head]? = some (some e) →
      exec (.bz imm) s = .next (if e.taken then s.pop.robReset e.ea else s.pop))

/-- A record with opcode 17 and format I decodes to it. At BRU1 the target is the address of the instruction plus the
immediate and the link is 0. At BRU2 with Z = 0 it is taken: the ROB entry records link, target and taken = 1 and is
valid, the front-end latches and every issue-queue slot are emptied and pc = target; otherwise the entry records taken
= 0 and the front end and pc stay. In both cases branch_pending = 0 and redirect = 1 and nothing else changes. At
commit the entry is popped, and the ROB is reset to its target exactly if the recorded outcome is taken. The target
form and the recorded outcome are decisions D16 and D27. [44_branch.md sections 1, 2 (R207, R200 to R203);
46_commit.md section 1 (R244); 30_encoding.md section 2; 92_eei_decisions.md D16, D27] -/
def Obligations.BnzMeaning : Prop :=
  ∀ (imm : Word),
    (∀ n w rd rs1 rs2 rs3, isWord w imm → decode n w ⟨17, rd, rs1, rs2, rs3, imm⟩ = .ok (.bnz imm)) ∧
    (∀ (s : State) (u : IqEntry) (e : RobEntry), s.stage = .bru1 → s.lBru1 = some u → s.rob[u.rob]? = some (some e) →
      exec (.bnz imm) s = .next { s with lBru2 := some { entry := u, target := wrap s.xlen (signed s.xlen e.pc + signed s.xlen imm), link := 0 }, lBru1 := none }) ∧
    (∀ (s : State) (b : BruOp), s.stage = .bru2 → s.lBru2 = some b → s.z = false →
      exec (.bnz imm) s = .next { s with
        rob := s.rob.modify b.entry.rob (Option.map (fun e =>
          { e with result := b.link, ea := b.target, taken := true, resultValid := true }))
        lBru2 := none, lf := none, ld := none, iq := s.iq.map (fun _ => none), pc := b.target
        branchPending := false, redirect := true }) ∧
    (∀ (s : State) (b : BruOp), s.stage = .bru2 → s.lBru2 = some b → s.z = true →
      exec (.bnz imm) s = .next { s with
        rob := s.rob.modify b.entry.rob (Option.map (fun e =>
          { e with result := b.link, ea := b.target, taken := false, resultValid := true }))
        lBru2 := none, branchPending := false, redirect := true }) ∧
    (∀ (s : State) (e : RobEntry), s.stage = .commit → s.count ≠ 0 → s.rob[s.head]? = some (some e) →
      exec (.bnz imm) s = .next (if e.taken then s.pop.robReset e.ea else s.pop))

/-- A record with opcode 10 and format RRI decodes to LOAD. At MEM1 ea is the base value plus the immediate, and the
micro-op moves to the next memory latch. With L_MEM > 2 the pass-through stages move what the last of their latches
holds to the access latch and what every other one holds one latch on, unchanged, and leave the first empty; with
L_MEM = 2 they do nothing. At the access stage with ea in 0 .. DMEM_SIZE-1 as a signed word, the ROB entry gets the
cell that ea names and is valid and the latch is emptied; otherwise DMEM_RANGE with ea is recorded. Nothing else
changes: no byte of memory, no register, no flag. At commit the result is retired into rd and the entry popped. That a
load has data 0 in its latch is log 14, the range fault is D11. [45_memory_unit.md sections 1, 2 (R224, R220 to R222;
D5, D11, D29); 46_commit.md section 1 (R242); 20_memory.md section 1 (R61, R62); 30_encoding.md section 2;
60_exceptions.md section 1 (R271); notes/assumptions/14.md] -/
def Obligations.LoadMeaning : Prop :=
  ∀ (rd rs1 : Nat) (imm : Word),
    (∀ n w rs2 rs3, rd < n → rs1 < n → isWord w imm → decode n w ⟨10, some rd, some rs1, rs2, rs3, imm⟩ = .ok (.load rd rs1 imm)) ∧
    (∀ (s : State) (u : IqEntry) (p1 : Nat) (r1 : PhysReg), s.stage = .mem1 → s.lMem1 = some u →
      u.ps1 = some p1 → s.prf[p1]? = some r1 →
      (s.memPass = [] → exec (.load rd rs1 imm) s = .next { s with
        lAcc := some { entry := u, ea := wrap s.xlen (signed s.xlen r1.value + signed s.xlen imm), data := 0 }, lMem1 := none }) ∧
      (∀ m ms, s.memPass = m :: ms → exec (.load rd rs1 imm) s = .next { s with
        memPass := some { entry := u, ea := wrap s.xlen (signed s.xlen r1.value + signed s.xlen imm), data := 0 } :: ms, lMem1 := none })) ∧
    (∀ s : State, (s.memPass = [] → passStage s = s) ∧
      (∀ ms m, s.memPass = ms ++ [m] → passStage s = { s with lAcc := m, memPass := none :: ms })) ∧
    (∀ (s : State) (m : MemOp), s.stage = .access → s.lAcc = some m →
      (0 ≤ signed s.xlen m.ea ∧ signed s.xlen m.ea < s.dmemSize → exec (.load rd rs1 imm) s = .next { s with
        rob := s.rob.modify m.entry.rob (Option.map (fun e =>
          { e with result := Mem.read s.dmem (signed s.xlen m.ea).toNat, resultValid := true }))
        lAcc := none }) ∧
      (¬ (0 ≤ signed s.xlen m.ea ∧ signed s.xlen m.ea < s.dmemSize) → exec (.load rd rs1 imm) s = .next { s with fault := some (.dmemRange m.ea) })) ∧
    (∀ (s : State) (e : RobEntry) (pd : Nat), s.stage = .commit → s.count ≠ 0 → s.rob[s.head]? = some (some e) → e.pd = some pd →
      exec (.load rd rs1 imm) s = .next (s.retire e.result rd pd).pop)

/-- A record with opcode 11 and format SRI decodes to STORE. At MEM1 ea is the value of the second source (base) plus the
immediate and data the value of the first. At the access stage the ROB entry gets data and ea and is valid and the
latch is emptied; memory is unchanged. At commit with ea in 0 .. DMEM_SIZE-1 as a signed word, the cell ea names is
written with the result, every other cell reads as before, and the entry is popped; otherwise DMEM_RANGE with ea is
recorded, and the entry and memory stay. Nothing else changes. The range fault is D11. [45_memory_unit.md sections 1,
2 (R225, R220 to R222; D5, D11, D29); 46_commit.md section 1 (R241); 20_memory.md section 1 (R61, R62); 30_encoding.md
section 2; 60_exceptions.md section 1 (R271)] -/
def Obligations.StoreMeaning : Prop :=
  ∀ (rs1 rs2 : Nat) (imm : Word),
    (∀ n w rd rs3, rs1 < n → rs2 < n → isWord w imm → decode n w ⟨11, rd, some rs1, some rs2, rs3, imm⟩ = .ok (.store rs1 rs2 imm)) ∧
    (∀ (s : State) (u : IqEntry) (p1 p2 : Nat) (r1 r2 : PhysReg), s.stage = .mem1 → s.lMem1 = some u →
      u.ps1 = some p1 → s.prf[p1]? = some r1 → u.ps2 = some p2 → s.prf[p2]? = some r2 →
      (s.memPass = [] → exec (.store rs1 rs2 imm) s = .next { s with
        lAcc := some { entry := u, ea := wrap s.xlen (signed s.xlen r2.value + signed s.xlen imm), data := r1.value }, lMem1 := none }) ∧
      (∀ m ms, s.memPass = m :: ms → exec (.store rs1 rs2 imm) s = .next { s with
        memPass := some { entry := u, ea := wrap s.xlen (signed s.xlen r2.value + signed s.xlen imm), data := r1.value } :: ms, lMem1 := none })) ∧
    (∀ (s : State) (m : MemOp), s.stage = .access → s.lAcc = some m →
      exec (.store rs1 rs2 imm) s = .next { s with
        rob := s.rob.modify m.entry.rob (Option.map (fun e => { e with result := m.data, ea := m.ea, resultValid := true }))
        lAcc := none }) ∧
    (∀ (s : State) (e : RobEntry), s.stage = .commit → s.count ≠ 0 → s.rob[s.head]? = some (some e) →
      (0 ≤ signed s.xlen e.ea ∧ signed s.xlen e.ea < s.dmemSize →
        exec (.store rs1 rs2 imm) s = .next { s with dmem := Mem.write s.dmem (signed s.xlen e.ea).toNat e.result }.pop ∧
        (Mem.wf s.dmem → ∀ a, Mem.read (Mem.write s.dmem (signed s.xlen e.ea).toNat e.result) a =
          if a = (signed s.xlen e.ea).toNat then e.result else Mem.read s.dmem a)) ∧
      (¬ (0 ≤ signed s.xlen e.ea ∧ signed s.xlen e.ea < s.dmemSize) →
        exec (.store rs1 rs2 imm) s = .next { s with fault := some (.dmemRange e.ea) }))

/-- A record with opcode 12 and format RRR decodes to LDR. At MEM1 ea is the sum of the two source values, not scaled, and
the micro-op moves to the next memory latch. At the access stage with ea in 0 .. DMEM_SIZE-1 as a signed word, the ROB
entry gets the cell that ea names and is valid and the latch is emptied; otherwise DMEM_RANGE with ea is recorded.
Nothing else changes. At commit the result is retired into rd and the entry popped. That a load has data 0 in its
latch is log 14, the range fault is D11. [45_memory_unit.md sections 1, 2 (R226, R220 to R222; D5, D11, D29);
46_commit.md section 1 (R242); 20_memory.md section 1 (R61, R62); 30_encoding.md section 2; 60_exceptions.md section 1
(R271); notes/assumptions/14.md] -/
def Obligations.LdrMeaning : Prop :=
  ∀ (rd rs1 rs2 : Nat),
    (∀ n w rs3 imm, rd < n → rs1 < n → rs2 < n → decode n w ⟨12, some rd, some rs1, some rs2, rs3, imm⟩ = .ok (.ldr rd rs1 rs2)) ∧
    (∀ (s : State) (u : IqEntry) (p1 p2 : Nat) (r1 r2 : PhysReg), s.stage = .mem1 → s.lMem1 = some u →
      u.ps1 = some p1 → s.prf[p1]? = some r1 → u.ps2 = some p2 → s.prf[p2]? = some r2 →
      (s.memPass = [] → exec (.ldr rd rs1 rs2) s = .next { s with
        lAcc := some { entry := u, ea := wrap s.xlen (signed s.xlen r1.value + signed s.xlen r2.value), data := 0 }, lMem1 := none }) ∧
      (∀ m ms, s.memPass = m :: ms → exec (.ldr rd rs1 rs2) s = .next { s with
        memPass := some { entry := u, ea := wrap s.xlen (signed s.xlen r1.value + signed s.xlen r2.value), data := 0 } :: ms, lMem1 := none })) ∧
    (∀ (s : State) (m : MemOp), s.stage = .access → s.lAcc = some m →
      (0 ≤ signed s.xlen m.ea ∧ signed s.xlen m.ea < s.dmemSize → exec (.ldr rd rs1 rs2) s = .next { s with
        rob := s.rob.modify m.entry.rob (Option.map (fun e =>
          { e with result := Mem.read s.dmem (signed s.xlen m.ea).toNat, resultValid := true }))
        lAcc := none }) ∧
      (¬ (0 ≤ signed s.xlen m.ea ∧ signed s.xlen m.ea < s.dmemSize) → exec (.ldr rd rs1 rs2) s = .next { s with fault := some (.dmemRange m.ea) })) ∧
    (∀ (s : State) (e : RobEntry) (pd : Nat), s.stage = .commit → s.count ≠ 0 → s.rob[s.head]? = some (some e) → e.pd = some pd →
      exec (.ldr rd rs1 rs2) s = .next (s.retire e.result rd pd).pop)

/-- A record with opcode 13 and format SRR decodes to STR. At MEM1 ea is the sum of the second (base) and third (index)
source values and data the value of the first. At the access stage the ROB entry gets data and ea and is valid and the
latch is emptied; memory is unchanged. At commit with ea in 0 .. DMEM_SIZE-1 as a signed word, the cell ea names is
written with the result, every other cell reads as before, and the entry is popped; otherwise DMEM_RANGE with ea is
recorded, and the entry and memory stay. Nothing else changes. The range fault is D11. [45_memory_unit.md sections 1,
2 (R227, R220 to R222; D5, D11, D29); 46_commit.md section 1 (R241); 20_memory.md section 1 (R61, R62); 30_encoding.md
section 2; 60_exceptions.md section 1 (R271)] -/
def Obligations.StrMeaning : Prop :=
  ∀ (rs1 rs2 rs3 : Nat),
    (∀ n w rd imm, rs1 < n → rs2 < n → rs3 < n → decode n w ⟨13, rd, some rs1, some rs2, some rs3, imm⟩ = .ok (.str rs1 rs2 rs3)) ∧
    (∀ (s : State) (u : IqEntry) (p1 p2 p3 : Nat) (r1 r2 r3 : PhysReg), s.stage = .mem1 → s.lMem1 = some u →
      u.ps1 = some p1 → s.prf[p1]? = some r1 → u.ps2 = some p2 → s.prf[p2]? = some r2 → u.ps3 = some p3 → s.prf[p3]? = some r3 →
      (s.memPass = [] → exec (.str rs1 rs2 rs3) s = .next { s with
        lAcc := some { entry := u, ea := wrap s.xlen (signed s.xlen r2.value + signed s.xlen r3.value), data := r1.value }, lMem1 := none }) ∧
      (∀ m ms, s.memPass = m :: ms → exec (.str rs1 rs2 rs3) s = .next { s with
        memPass := some { entry := u, ea := wrap s.xlen (signed s.xlen r2.value + signed s.xlen r3.value), data := r1.value } :: ms, lMem1 := none })) ∧
    (∀ (s : State) (m : MemOp), s.stage = .access → s.lAcc = some m →
      exec (.str rs1 rs2 rs3) s = .next { s with
        rob := s.rob.modify m.entry.rob (Option.map (fun e => { e with result := m.data, ea := m.ea, resultValid := true }))
        lAcc := none }) ∧
    (∀ (s : State) (e : RobEntry), s.stage = .commit → s.count ≠ 0 → s.rob[s.head]? = some (some e) →
      (0 ≤ signed s.xlen e.ea ∧ signed s.xlen e.ea < s.dmemSize →
        exec (.str rs1 rs2 rs3) s = .next { s with dmem := Mem.write s.dmem (signed s.xlen e.ea).toNat e.result }.pop ∧
        (Mem.wf s.dmem → ∀ a, Mem.read (Mem.write s.dmem (signed s.xlen e.ea).toNat e.result) a =
          if a = (signed s.xlen e.ea).toNat then e.result else Mem.read s.dmem a)) ∧
      (¬ (0 ≤ signed s.xlen e.ea ∧ signed s.xlen e.ea < s.dmemSize) →
        exec (.str rs1 rs2 rs3) s = .next { s with fault := some (.dmemRange e.ea) }))

/-- Records with opcode 18 and 19 decode to NOP and HALT. At commit, exec of NOP answers the state with the head entry
popped and nothing else written; exec of HALT answers the state with the head entry popped and halted and halt_retired
set. The behaviour of NOP is decision D21, that the cycle goes on after HALT commits is D30. [46_commit.md section 1
(R247, R248; D21, D30); 30_encoding.md section 2] -/
def Obligations.NopAndHaltCommit : Prop :=
  (∀ n w rd rs1 rs2 rs3 imm, decode n w ⟨18, rd, rs1, rs2, rs3, imm⟩ = .ok .nop ∧ decode n w ⟨19, rd, rs1, rs2, rs3, imm⟩ = .ok .halt) ∧
  (∀ (s : State) (e : RobEntry), s.stage = .commit → s.count ≠ 0 → s.rob[s.head]? = some (some e) → exec .nop s = .next s.pop) ∧
  (∀ (s : State) (e : RobEntry), s.stage = .commit → s.count ≠ 0 → s.rob[s.head]? = some (some e) →
    exec .halt s = .next { s.pop with halted := true, haltRetired := true })

/-- Retire(v, rd, pd): if RRAT maps rd to a slot old other than pd, old becomes free, its value and has_result kept; slot
pd gets value v and has_result = 1; RRAT[rd] becomes pd; where RRAT leaves rd unmapped, or maps it to pd, no slot is
freed. Every other slot, every other mapping and every other field is unchanged. If old is busy and pd is not old,
then old is free afterwards. [R243] -/
def Obligations.RetireEffect : Prop :=
  ∀ (s : State) (v : Word) (rd : Nat) (pd : Nat),
    (∀ r, s.prf[pd]? = some r → (s.retire v rd pd).prf[pd]? = some { r with value := v, hasResult := true }) ∧
    (∀ old r, s.rrat[rd]? = some (some old) → old ≠ pd → s.prf[old]? = some r →
      (s.retire v rd pd).prf[old]? = some { r with busy := false }) ∧
    (∀ p, p ≠ pd → s.rrat[rd]? ≠ some (some p) → (s.retire v rd pd).prf[p]? = s.prf[p]?) ∧
    (rd < s.rrat.length → (s.retire v rd pd).rrat[rd]? = some (some pd)) ∧
    (∀ q, q ≠ rd → (s.retire v rd pd).rrat[q]? = s.rrat[q]?) ∧
    { s.retire v rd pd with prf := s.prf, rrat := s.rrat } = s

/-- Pop empties the entry at head, advances head modulo N_ROB and decrements count, and changes nothing else.
ROBReset(target) clears the busy bit of exactly the physical destinations of the entries in flight, keeping values and
has_result; every ROB entry is emptied with head = tail = count = 0; SRAT = RRAT; every issue-queue slot, unit latch
and front-end latch is emptied; pc = target; branch_pending = 0 and redirect = 1; nothing else changes. This action is
decision D26 of the spec. [46_commit.md sections 1, 2 (R240, R249; D26)] -/
def Obligations.PopAndRobResetEffect : Prop :=
  (∀ s : State, s.pop = { s with
    rob := s.rob.set s.head none, head := (s.head + 1) % s.rob.length, count := s.count - 1 }) ∧
  (∀ (s : State) (target : Word),
    (∀ p r, s.prf[p]? = some r → (∃ e ∈ s.inFlight, e.pd = some p) →
      (s.robReset target).prf[p]? = some { r with busy := false }) ∧
    (∀ p, (¬ ∃ e ∈ s.inFlight, e.pd = some p) → (s.robReset target).prf[p]? = s.prf[p]?) ∧
    s.robReset target = { s with
      prf := (s.robReset target).prf
      rob := s.rob.map (fun _ => none), head := 0, tail := 0, count := 0, srat := s.rrat
      iq := s.iq.map (fun _ => none), lInt := none, lMul1 := none, lMul2 := none, lMul3 := none, lBru1 := none
      lBru2 := none, lMem1 := none, memPass := s.memPass.map (fun _ => none), lAcc := none, lf := none, ld := none
      pc := target, branchPending := false, redirect := true })

/-- A class selects slot k exactly if slot k holds a micro-op of that class whose every used source has a result and no
lower slot does. After the issue stage a slot is free if its micro-op was selected by its class and as it was
otherwise; the first latch of each unit holds the selected micro-op, or what it held if none was selected; the ROB
entry of a selected memory micro-op is memory-ready; and nothing else changes. [R142] -/
def Obligations.IssueStageEffect : Prop :=
  (∀ (s : State) (c : FuClass) (k : Nat), s.select c = some k ↔
    (∃ u, s.iq[k]? = some (some u) ∧ u.insn.cls = some c ∧
      ∀ q p, q ∈ [u.ps1, u.ps2, u.ps3] → q = some p → ∃ r, s.prf[p]? = some r ∧ r.hasResult = true) ∧
    (∀ j u, j < k → s.iq[j]? = some (some u) → u.insn.cls = some c →
      ∃ q p, q ∈ [u.ps1, u.ps2, u.ps3] ∧ q = some p ∧ ∀ r, s.prf[p]? = some r → r.hasResult = false) ∧ k < s.iq.length) ∧
  (∀ s : State,
    (∀ k u, s.iq[k]? = some (some u) → (∃ c, u.insn.cls = some c ∧ s.select c = some k) →
      (issueStage s).iq[k]? = some none) ∧
    (∀ k, (∀ u c, s.iq[k]? = some (some u) → u.insn.cls = some c → s.select c ≠ some k) →
      (issueStage s).iq[k]? = s.iq[k]?) ∧
    (∀ k u, s.select .int = some k → s.iq[k]? = some (some u) → (issueStage s).lInt = some u) ∧
    (s.select .int = none → (issueStage s).lInt = s.lInt) ∧
    (∀ k u, s.select .mul = some k → s.iq[k]? = some (some u) → (issueStage s).lMul1 = some u) ∧
    (s.select .mul = none → (issueStage s).lMul1 = s.lMul1) ∧
    (∀ k u, s.select .branch = some k → s.iq[k]? = some (some u) → (issueStage s).lBru1 = some u) ∧
    (s.select .branch = none → (issueStage s).lBru1 = s.lBru1) ∧
    (∀ k u, s.select .mem = some k → s.iq[k]? = some (some u) → (issueStage s).lMem1 = some u ∧
      (issueStage s).rob = s.rob.modify u.rob (Option.map (fun e => { e with memReady := true }))) ∧
    (s.select .mem = none → (issueStage s).lMem1 = s.lMem1 ∧ (issueStage s).rob = s.rob) ∧
    { issueStage s with iq := s.iq, lInt := s.lInt, lMul1 := s.lMul1, lBru1 := s.lBru1, lMem1 := s.lMem1, rob := s.rob } = s)

/-- The fetch stage changes nothing if redirect or branch_pending is set. Otherwise, with an instruction held in L.F, it
moves to L.D if L.D is empty, and nothing changes if not. With L.F empty it reads the store at pc: instruction k of
the store is at BASE_PC + INSN_BYTES*k; below BASE_PC, off a multiple of INSN_BYTES or past the store nothing changes;
else pc advances by INSN_BYTES, wrapping, and the instruction, with its address, goes to L.D if that is empty and to
L.F if not. Nothing else changes. The rules of the held instruction and of invalid addresses are decisions D12, D23
and D24. [40_cycle_fetch_dispatch.md section 2 (R105, R106, R107; D12, D23, D24)] -/
def Obligations.FetchStageEffect : Prop :=
  (∀ s : State, (s.redirect = true ∨ s.branchPending = true) → fetchStage s = s) ∧
  (∀ (s : State) (f : Fetched), s.redirect = false → s.branchPending = false → s.lf = some f →
    (s.ld = none → fetchStage s = { s with ld := some f, lf := none }) ∧ (∀ d, s.ld = some d → fetchStage s = s)) ∧
  (∀ s : State, s.redirect = false → s.branchPending = false → s.lf = none →
    (s.ifetch s.pc = none → fetchStage s = s) ∧
    (∀ i, s.ifetch s.pc = some i →
      (s.ld = none → fetchStage s = { s with ld := some { pc := s.pc, insn := i }, pc := wrap s.xlen (s.pc + s.insnBytes) }) ∧
      (∀ d, s.ld = some d → fetchStage s = { s with lf := some { pc := s.pc, insn := i }, pc := wrap s.xlen (s.pc + s.insnBytes) }))) ∧
  (∀ (s : State) (a : Word),
    (∀ k, 0 < s.insnBytes → a = s.basePc + s.insnBytes * k → s.ifetch a = s.imem[k]?) ∧
    (a < s.basePc → s.ifetch a = none) ∧
    (s.basePc ≤ a → (a - s.basePc) % s.insnBytes ≠ 0 → s.ifetch a = none))

/-- For every step from a state whose ROB is empty, or whose head entry is not valid: RRAT, the value of every physical
slot, every architectural register value, data memory, the head cursor and halted are unchanged. [10_state.md sections
2, 3 (R24, R27); 20_memory.md section 3 (R69); 46_commit.md section 1 (R240)] -/
def Obligations.ArchitecturalStateOnlyByCommit : Prop :=
  ∀ s t : State, s.stage = .dispatch → step s = .next t →
    (s.count = 0 ∨ ∃ e, s.rob[s.head]? = some (some e) ∧ e.resultValid = false) →
    t.rrat = s.rrat ∧ t.prf.map (fun r => r.value) = s.prf.map (fun r => r.value) ∧
    (∀ r, t.archReg r = s.archReg r) ∧ t.dmem = s.dmem ∧ t.head = s.head ∧ t.halted = s.halted

/-- For every step from a state in which L.INT is empty or holds an instruction other than ADD, SUB, ADDL, SUBL and CMP, Z
is unchanged: no other opcode, no commit, no squash and no ROB reset writes it. [10_state.md section 5 (R31);
42_integer.md section 1 (R160)] -/
def Obligations.FlagWrittenOnlyBySetters : Prop :=
  ∀ s t : State, s.stage = .dispatch → step s = .next t →
    (∀ u, s.lInt = some u → ∀ (a b c : Nat) (i : Word), u.insn ≠ .add a b c ∧ u.insn ≠ .sub a b c ∧ u.insn ≠ .addl a b i ∧
      u.insn ≠ .subl a b i ∧ u.insn ≠ .cmp a b c) → t.z = s.z

/-- For every step from a state in which no ROB entry is a valid STORE or STR, data memory is unchanged. [20_memory.md
section 3 (R69, R71); 46_commit.md section 1 (R241)] -/
def Obligations.MemoryWrittenOnlyByCommittedStores : Prop :=
  ∀ s t : State, s.stage = .dispatch → step s = .next t →
    (∀ e, some e ∈ s.rob → e.resultValid = true → ∀ (a b c : Nat) (i : Word), e.insn ≠ .store a b i ∧ e.insn ≠ .str a b c) →
    t.dmem = s.dmem

/-- For every step: the instruction store, XLEN, INSN_BYTES, BASE_PC, DMEM_SIZE, and the sizes N_PHYS, N_ARCH, N_IQ, N_ROB
and L_MEM are unchanged, given that both rename tables have the same size. [10_state.md section 7 (R40); 20_memory.md
section 4 (R73); 00_scope.md section 4 (R9)] -/
def Obligations.StoreAndParametersNeverWritten : Prop :=
  ∀ s t : State, s.stage = .dispatch → s.srat.length = s.rrat.length → step s = .next t → SameShape s t

/-- If every latch of the integer, multiply, branch and memory units is empty or holds a micro-op of the class of that
unit, the same holds after every step. [10_state.md section 7 (R38, R41); 41_issue_queue.md section 2 (R142);
30_encoding.md section 5 (R88)] -/
def Obligations.UnitLatchesHoldTheirClass : Prop :=
  ∀ s t : State, s.stage = .dispatch → s.UnitsOk → step s = .next t → t.UnitsOk

/-- From every running state in which each unit latch holds only micro-ops of its own class, the step answers a next
state, again at a cycle boundary: no stop and no refusal. [60_exceptions.md section 1 (R274);
40_cycle_fetch_dispatch.md section 1 (R100, R103)] -/
def Obligations.RunningMachineAlwaysSteps : Prop :=
  ∀ s : State, s.Running → s.UnitsOk → ∃ t, step s = .next t ∧ t.stage = .dispatch

/-- If head is in range, count is at most N_ROB, tail is count entries after head, and exactly the count entries from head
on are occupied, the same holds after every step. [10_state.md section 7 (R39, D25); 46_commit.md sections 1, 3 (R240,
R252)] -/
def Obligations.RobStaysACircularWindow : Prop :=
  ∀ s t : State, s.stage = .dispatch → s.RobOk → step s = .next t → t.RobOk

/-- If SRAT is RRAT updated by the destination mappings of the in-flight entries in program order, or the machine is
halted with SRAT = RRAT, the same holds after every step; and in every state where that holds and the ROB is empty,
SRAT = RRAT. After every step in which a HALT retired and no fault was recorded, SRAT = RRAT, whatever is still in
flight (the HALT resynchronization). [10_state.md section 3 (R26, R27, R28); 46_commit.md sections 2, 3 (R249, R251,
R254); 90_conflicts.md C5] -/
def Obligations.SpeculativeTableFollowsInFlightProducers : Prop :=
  (∀ s t : State, s.stage = .dispatch → s.RobOk → s.RenameOk → step s = .next t → t.RenameOk) ∧
  (∀ s : State, s.RenameOk → s.count = 0 → s.srat = s.rrat) ∧
  (∀ s t : State, s.stage = .dispatch → step s = .next t → t.haltRetired = true → t.fault = none → t.srat = t.rrat)

/-- If the rename tables have one size, the instructions in the store, the front-end latches and the ROB are well formed
(they name only logical registers below it, and their immediates are words of XLEN bits), and a ROB entry has a
physical destination exactly if its instruction is a producer, the same holds after every step. [30_encoding.md
sections 1, 4, 5 (R80, R87, R89); 40_cycle_fetch_dispatch.md section 3 (R112, R113)] -/
def Obligations.InstructionsInFlightNameLogicalRegisters : Prop :=
  ∀ s t : State, s.stage = .dispatch → s.InsnsOk → step s = .next t → t.InsnsOk

/-- If no physical slot is named twice among the retirement mappings and the destinations of the ROB entries in flight,
and a slot is busy exactly if it is so named, the same holds after every step. [40_cycle_fetch_dispatch.md section 3
(R122); 46_commit.md section 3 (R253); 10_state.md section 2 (R25)] -/
def Obligations.FreeListConservation : Prop :=
  ∀ s t : State, s.stage = .dispatch → s.RobOk → s.InsnsOk → s.FreeListOk → step s = .next t → t.FreeListOk

/-- If the number of control-flow instructions in the issue queue, L.BRU1 and L.BRU2 is 1 when branch_pending is set and 0
when not, and L.D is empty while it is set, the same holds after every step. [10_state.md section 6 (R33);
40_cycle_fetch_dispatch.md section 3 (R116); 44_branch.md section 3 (R209)] -/
def Obligations.AtMostOneUnresolvedBranch : Prop :=
  ∀ s t : State, s.stage = .dispatch → s.BranchOk → step s = .next t → t.BranchOk

/-- If the memory list has strictly rising addresses, no cell with the value 0, and only addresses below DMEM_SIZE, the
same holds after every step. The list form is log 5. [20_memory.md sections 1, 3 (R62, R69); 10_state.md section 8
(R42); notes/assumptions/5.md] -/
def Obligations.MemoryStaysCanonical : Prop :=
  ∀ s t : State, s.stage = .dispatch → s.MemOk → step s = .next t → t.MemOk

/-- If a launch with the parameter record p, a store of records and preloaded registers and cells answers a state, then p
meets the constraints of R10 and gives the fixed parameters (latencies and widths) their values of R9, the state meets
the launch predicate of R293 (nothing in flight, branch_pending, halted and fault clear, Z = Z_RESET, every busy slot
mapped by exactly one register, the same in both tables, the store well formed), it is at a cycle boundary, and it
satisfies the invariants of the unit latches, the reorder buffer, the rename tables, the instructions, the free list,
the branch bookkeeping, the data memory and the words. A launch with a parameter record outside those constraints is
refused. The state after reset meets all of it too, with an empty store. That a fixed parameter is refused at another
value, and that INSN_BYTES is at least 1 and BASE_PC a word, is log 16. [70_reset_and_hazards.md sections 1, 2 (R291
to R293; D9, D47); 00_scope.md section 4 (R9, R10); 30_encoding.md section 4 (R87); notes/assumptions/16.md] -/
def Obligations.LaunchMeetsTheInvariants : Prop :=
  (∀ (p : Params) (store : List Record) (regs cells : List (Nat × Word)) (s : State),
    launch p store regs cells = .ok s →
    p.wf ∧ Launched p s ∧ s.Running ∧ s.UnitsOk ∧ s.RobOk ∧ s.RenameOk ∧ s.InsnsOk ∧ s.FreeListOk ∧ s.BranchOk ∧ s.MemOk ∧
      s.WordsOk) ∧
  (∀ (p : Params) (store : List Record) (regs cells : List (Nat × Word)),
    ¬ p.wf → launch p store regs cells = .error .badParams) ∧
  (Launched Params.default State.reset ∧ State.reset.Running ∧ State.reset.UnitsOk ∧ State.reset.RobOk ∧
    State.reset.RenameOk ∧ State.reset.InsnsOk ∧ State.reset.FreeListOk ∧ State.reset.BranchOk ∧ State.reset.MemOk ∧
    State.reset.WordsOk)

/-- If every physical-register value, pc, every address, result, target, link and data word in a latch, the ROB or data
memory, and every immediate of an instruction in the store, a latch, the issue queue or the ROB is below 2^XLEN, the
same holds after every step. That the width is a field of the state is log 8. [00_scope.md sections 4, 5 (R9, R11);
10_state.md sections 2, 4, 7, 8 (R23, R29, R30, R37 to R42); notes/assumptions/8.md] -/
def Obligations.WordsStayWords : Prop :=
  ∀ s t : State, s.stage = .dispatch → s.WordsOk → step s = .next t → t.WordsOk

/-- For every step whose commit and memory stages leave a state without a fault in which L.BRU2 holds a control-flow
instruction that is taken (JUMP, JAL, BZ with Z = 1, BNZ with Z = 0): after the step every issue-queue slot is free,
L.F and L.D are empty, pc is the target, and branch_pending is 0. [44_branch.md sections 1, 3 (R202, R210)] -/
def Obligations.SquashIsAtomic : Prop :=
  ∀ (s s1 t : State) (b : BruOp), s.stage = .dispatch → step s = .next t →
    andThen (commitStage (startCycle s)) memoryStages = .next s1 → s1.fault = none → s1.lBru2 = some b →
    ((∃ r i, b.entry.insn = .jump r i) ∨ (∃ d r i, b.entry.insn = .jal d r i) ∨
      ((∃ i, b.entry.insn = .bz i) ∧ s1.z = true) ∨ ((∃ i, b.entry.insn = .bnz i) ∧ s1.z = false)) →
    (∀ e ∈ t.iq, e = none) ∧ t.lf = none ∧ t.ld = none ∧ t.pc = b.target ∧ t.branchPending = false

/-- If the entry at the head of a well-formed ROB is not valid and no micro-op of it is in the issue queue or in a latch,
then after every step the same holds, with the head cursor, RRAT, data memory and halted unchanged. [44_branch.md
section 1 (R202); 70_reset_and_hazards.md section 4 (R302)] -/
def Obligations.StrandedHeadBlocksCommitForEver : Prop :=
  ∀ s t : State, s.stage = .dispatch → s.RobOk → s.Stranded → step s = .next t →
    t.RobOk ∧ t.Stranded ∧ t.head = s.head ∧ t.rrat = s.rrat ∧ t.dmem = s.dmem ∧ t.halted = s.halted

/-- From every running state with nothing in flight behind the front end, ROB, free list and instructions in order, an
idle front end behind the decode latch, and ADD rd,rs1,rs2 in the decode latch with both sources holding the
architectural values a and b, a free physical slot and sizes of at least one: after four steps (dispatch, issue,
integer stage, commit) the ROB is empty, the architectural value of rd is the wrapping sum a + b, every other register
keeps its value, Z tells whether a + b is 0, and data memory is unchanged. [42_integer.md section 3 (R170);
70_reset_and_hazards.md section 5 (R312); 40_cycle_fetch_dispatch.md section 1 (R102)] -/
def Obligations.LoneAddCommitsInFourCycles : Prop :=
  ∀ (s : State) (d : Fetched) (rd rs1 rs2 : Nat) (a b : Word),
    s.Running → s.BackEndIdle → s.RobOk → s.RenameOk → s.InsnsOk → s.FreeListOk →
    s.ld = some d → d.insn = .add rd rs1 rs2 → s.lf = none → s.ifetch s.pc = none → s.iq ≠ [] →
    (∃ r ∈ s.prf, r.busy = false) →
    s.archReg rs1 = some a → s.archReg rs2 = some b →
    (∀ p, s.retired rs1 = some p → s.physHasResult p = true) → (∀ p, s.retired rs2 = some p → s.physHasResult p = true) →
    ∃ t, core.run 4 s = .next t ∧ t.count = 0 ∧ t.archReg rd = some (wrap s.xlen (signed s.xlen a + signed s.xlen b)) ∧ (∀ r, r ≠ rd → t.archReg r = s.archReg r) ∧
      t.z = decide (wrap s.xlen (signed s.xlen a + signed s.xlen b) = 0) ∧ t.dmem = s.dmem ∧ t.halted = false ∧ t.fault = none
end

