-- ==== Sys2Proof/Laws/State.lean ====
section
/-! SUPPORT. One lemma per field per named update of the state, true by rfl: what an update changes and what it leaves. -/

namespace Sys2Proof.Machine

@[simp] theorem State.memWrite_prf (s : State) (ea v : Word) : (s.memWrite ea v).prf = s.prf := rfl
@[simp] theorem State.memWrite_srat (s : State) (ea v : Word) : (s.memWrite ea v).srat = s.srat := rfl
@[simp] theorem State.memWrite_rrat (s : State) (ea v : Word) : (s.memWrite ea v).rrat = s.rrat := rfl
@[simp] theorem State.memWrite_pc (s : State) (ea v : Word) : (s.memWrite ea v).pc = s.pc := rfl
@[simp] theorem State.memWrite_z (s : State) (ea v : Word) : (s.memWrite ea v).z = s.z := rfl
@[simp] theorem State.memWrite_branchPending (s : State) (ea v : Word) : (s.memWrite ea v).branchPending = s.branchPending := rfl
@[simp] theorem State.memWrite_redirect (s : State) (ea v : Word) : (s.memWrite ea v).redirect = s.redirect := rfl
@[simp] theorem State.memWrite_halted (s : State) (ea v : Word) : (s.memWrite ea v).halted = s.halted := rfl
@[simp] theorem State.memWrite_haltRetired (s : State) (ea v : Word) : (s.memWrite ea v).haltRetired = s.haltRetired := rfl
@[simp] theorem State.memWrite_fault (s : State) (ea v : Word) : (s.memWrite ea v).fault = s.fault := rfl
@[simp] theorem State.memWrite_lf (s : State) (ea v : Word) : (s.memWrite ea v).lf = s.lf := rfl
@[simp] theorem State.memWrite_ld (s : State) (ea v : Word) : (s.memWrite ea v).ld = s.ld := rfl
@[simp] theorem State.memWrite_iq (s : State) (ea v : Word) : (s.memWrite ea v).iq = s.iq := rfl
@[simp] theorem State.memWrite_rob (s : State) (ea v : Word) : (s.memWrite ea v).rob = s.rob := rfl
@[simp] theorem State.memWrite_head (s : State) (ea v : Word) : (s.memWrite ea v).head = s.head := rfl
@[simp] theorem State.memWrite_tail (s : State) (ea v : Word) : (s.memWrite ea v).tail = s.tail := rfl
@[simp] theorem State.memWrite_count (s : State) (ea v : Word) : (s.memWrite ea v).count = s.count := rfl
@[simp] theorem State.memWrite_imem (s : State) (ea v : Word) : (s.memWrite ea v).imem = s.imem := rfl
@[simp] theorem State.memWrite_lInt (s : State) (ea v : Word) : (s.memWrite ea v).lInt = s.lInt := rfl
@[simp] theorem State.memWrite_lMul1 (s : State) (ea v : Word) : (s.memWrite ea v).lMul1 = s.lMul1 := rfl
@[simp] theorem State.memWrite_lMul2 (s : State) (ea v : Word) : (s.memWrite ea v).lMul2 = s.lMul2 := rfl
@[simp] theorem State.memWrite_lMul3 (s : State) (ea v : Word) : (s.memWrite ea v).lMul3 = s.lMul3 := rfl
@[simp] theorem State.memWrite_lBru1 (s : State) (ea v : Word) : (s.memWrite ea v).lBru1 = s.lBru1 := rfl
@[simp] theorem State.memWrite_lBru2 (s : State) (ea v : Word) : (s.memWrite ea v).lBru2 = s.lBru2 := rfl
@[simp] theorem State.memWrite_lMem1 (s : State) (ea v : Word) : (s.memWrite ea v).lMem1 = s.lMem1 := rfl
@[simp] theorem State.memWrite_memPass (s : State) (ea v : Word) : (s.memWrite ea v).memPass = s.memPass := rfl
@[simp] theorem State.memWrite_lAcc (s : State) (ea v : Word) : (s.memWrite ea v).lAcc = s.lAcc := rfl
@[simp] theorem State.memWrite_dmem (s : State) (ea v : Word) : (s.memWrite ea v).dmem = Mem.write s.dmem (s.cellOf ea) v := rfl
@[simp] theorem State.memWrite_xlen (s : State) (ea v : Word) : (s.memWrite ea v).xlen = s.xlen := rfl
@[simp] theorem State.memWrite_insnBytes (s : State) (ea v : Word) : (s.memWrite ea v).insnBytes = s.insnBytes := rfl
@[simp] theorem State.memWrite_basePc (s : State) (ea v : Word) : (s.memWrite ea v).basePc = s.basePc := rfl
@[simp] theorem State.memWrite_dmemSize (s : State) (ea v : Word) : (s.memWrite ea v).dmemSize = s.dmemSize := rfl
@[simp] theorem State.memWrite_stage (s : State) (ea v : Word) : (s.memWrite ea v).stage = s.stage := rfl

@[simp] theorem State.raiseFault_prf (s : State) (f : FaultRecord) : (s.raiseFault f).prf = s.prf := rfl
@[simp] theorem State.raiseFault_srat (s : State) (f : FaultRecord) : (s.raiseFault f).srat = s.srat := rfl
@[simp] theorem State.raiseFault_rrat (s : State) (f : FaultRecord) : (s.raiseFault f).rrat = s.rrat := rfl
@[simp] theorem State.raiseFault_pc (s : State) (f : FaultRecord) : (s.raiseFault f).pc = s.pc := rfl
@[simp] theorem State.raiseFault_z (s : State) (f : FaultRecord) : (s.raiseFault f).z = s.z := rfl
@[simp] theorem State.raiseFault_branchPending (s : State) (f : FaultRecord) : (s.raiseFault f).branchPending = s.branchPending := rfl
@[simp] theorem State.raiseFault_redirect (s : State) (f : FaultRecord) : (s.raiseFault f).redirect = s.redirect := rfl
@[simp] theorem State.raiseFault_halted (s : State) (f : FaultRecord) : (s.raiseFault f).halted = s.halted := rfl
@[simp] theorem State.raiseFault_haltRetired (s : State) (f : FaultRecord) : (s.raiseFault f).haltRetired = s.haltRetired := rfl
@[simp] theorem State.raiseFault_fault (s : State) (f : FaultRecord) : (s.raiseFault f).fault = some f := rfl
@[simp] theorem State.raiseFault_lf (s : State) (f : FaultRecord) : (s.raiseFault f).lf = s.lf := rfl
@[simp] theorem State.raiseFault_ld (s : State) (f : FaultRecord) : (s.raiseFault f).ld = s.ld := rfl
@[simp] theorem State.raiseFault_iq (s : State) (f : FaultRecord) : (s.raiseFault f).iq = s.iq := rfl
@[simp] theorem State.raiseFault_rob (s : State) (f : FaultRecord) : (s.raiseFault f).rob = s.rob := rfl
@[simp] theorem State.raiseFault_head (s : State) (f : FaultRecord) : (s.raiseFault f).head = s.head := rfl
@[simp] theorem State.raiseFault_tail (s : State) (f : FaultRecord) : (s.raiseFault f).tail = s.tail := rfl
@[simp] theorem State.raiseFault_count (s : State) (f : FaultRecord) : (s.raiseFault f).count = s.count := rfl
@[simp] theorem State.raiseFault_imem (s : State) (f : FaultRecord) : (s.raiseFault f).imem = s.imem := rfl
@[simp] theorem State.raiseFault_lInt (s : State) (f : FaultRecord) : (s.raiseFault f).lInt = s.lInt := rfl
@[simp] theorem State.raiseFault_lMul1 (s : State) (f : FaultRecord) : (s.raiseFault f).lMul1 = s.lMul1 := rfl
@[simp] theorem State.raiseFault_lMul2 (s : State) (f : FaultRecord) : (s.raiseFault f).lMul2 = s.lMul2 := rfl
@[simp] theorem State.raiseFault_lMul3 (s : State) (f : FaultRecord) : (s.raiseFault f).lMul3 = s.lMul3 := rfl
@[simp] theorem State.raiseFault_lBru1 (s : State) (f : FaultRecord) : (s.raiseFault f).lBru1 = s.lBru1 := rfl
@[simp] theorem State.raiseFault_lBru2 (s : State) (f : FaultRecord) : (s.raiseFault f).lBru2 = s.lBru2 := rfl
@[simp] theorem State.raiseFault_lMem1 (s : State) (f : FaultRecord) : (s.raiseFault f).lMem1 = s.lMem1 := rfl
@[simp] theorem State.raiseFault_memPass (s : State) (f : FaultRecord) : (s.raiseFault f).memPass = s.memPass := rfl
@[simp] theorem State.raiseFault_lAcc (s : State) (f : FaultRecord) : (s.raiseFault f).lAcc = s.lAcc := rfl
@[simp] theorem State.raiseFault_dmem (s : State) (f : FaultRecord) : (s.raiseFault f).dmem = s.dmem := rfl
@[simp] theorem State.raiseFault_xlen (s : State) (f : FaultRecord) : (s.raiseFault f).xlen = s.xlen := rfl
@[simp] theorem State.raiseFault_insnBytes (s : State) (f : FaultRecord) : (s.raiseFault f).insnBytes = s.insnBytes := rfl
@[simp] theorem State.raiseFault_basePc (s : State) (f : FaultRecord) : (s.raiseFault f).basePc = s.basePc := rfl
@[simp] theorem State.raiseFault_dmemSize (s : State) (f : FaultRecord) : (s.raiseFault f).dmemSize = s.dmemSize := rfl
@[simp] theorem State.raiseFault_stage (s : State) (f : FaultRecord) : (s.raiseFault f).stage = s.stage := rfl

@[simp] theorem State.retire_prf (s : State) (v : Word) (rd : Nat) (pd : Nat) : (s.retire v rd pd).prf = installResult (freeSlot s.prf (s.superseded rd pd)) pd v := rfl
@[simp] theorem State.retire_srat (s : State) (v : Word) (rd : Nat) (pd : Nat) : (s.retire v rd pd).srat = s.srat := rfl
@[simp] theorem State.retire_rrat (s : State) (v : Word) (rd : Nat) (pd : Nat) : (s.retire v rd pd).rrat = s.rrat.set rd (some pd) := rfl
@[simp] theorem State.retire_pc (s : State) (v : Word) (rd : Nat) (pd : Nat) : (s.retire v rd pd).pc = s.pc := rfl
@[simp] theorem State.retire_z (s : State) (v : Word) (rd : Nat) (pd : Nat) : (s.retire v rd pd).z = s.z := rfl
@[simp] theorem State.retire_branchPending (s : State) (v : Word) (rd : Nat) (pd : Nat) : (s.retire v rd pd).branchPending = s.branchPending := rfl
@[simp] theorem State.retire_redirect (s : State) (v : Word) (rd : Nat) (pd : Nat) : (s.retire v rd pd).redirect = s.redirect := rfl
@[simp] theorem State.retire_halted (s : State) (v : Word) (rd : Nat) (pd : Nat) : (s.retire v rd pd).halted = s.halted := rfl
@[simp] theorem State.retire_haltRetired (s : State) (v : Word) (rd : Nat) (pd : Nat) : (s.retire v rd pd).haltRetired = s.haltRetired := rfl
@[simp] theorem State.retire_fault (s : State) (v : Word) (rd : Nat) (pd : Nat) : (s.retire v rd pd).fault = s.fault := rfl
@[simp] theorem State.retire_lf (s : State) (v : Word) (rd : Nat) (pd : Nat) : (s.retire v rd pd).lf = s.lf := rfl
@[simp] theorem State.retire_ld (s : State) (v : Word) (rd : Nat) (pd : Nat) : (s.retire v rd pd).ld = s.ld := rfl
@[simp] theorem State.retire_iq (s : State) (v : Word) (rd : Nat) (pd : Nat) : (s.retire v rd pd).iq = s.iq := rfl
@[simp] theorem State.retire_rob (s : State) (v : Word) (rd : Nat) (pd : Nat) : (s.retire v rd pd).rob = s.rob := rfl
@[simp] theorem State.retire_head (s : State) (v : Word) (rd : Nat) (pd : Nat) : (s.retire v rd pd).head = s.head := rfl
@[simp] theorem State.retire_tail (s : State) (v : Word) (rd : Nat) (pd : Nat) : (s.retire v rd pd).tail = s.tail := rfl
@[simp] theorem State.retire_count (s : State) (v : Word) (rd : Nat) (pd : Nat) : (s.retire v rd pd).count = s.count := rfl
@[simp] theorem State.retire_imem (s : State) (v : Word) (rd : Nat) (pd : Nat) : (s.retire v rd pd).imem = s.imem := rfl
@[simp] theorem State.retire_lInt (s : State) (v : Word) (rd : Nat) (pd : Nat) : (s.retire v rd pd).lInt = s.lInt := rfl
@[simp] theorem State.retire_lMul1 (s : State) (v : Word) (rd : Nat) (pd : Nat) : (s.retire v rd pd).lMul1 = s.lMul1 := rfl
@[simp] theorem State.retire_lMul2 (s : State) (v : Word) (rd : Nat) (pd : Nat) : (s.retire v rd pd).lMul2 = s.lMul2 := rfl
@[simp] theorem State.retire_lMul3 (s : State) (v : Word) (rd : Nat) (pd : Nat) : (s.retire v rd pd).lMul3 = s.lMul3 := rfl
@[simp] theorem State.retire_lBru1 (s : State) (v : Word) (rd : Nat) (pd : Nat) : (s.retire v rd pd).lBru1 = s.lBru1 := rfl
@[simp] theorem State.retire_lBru2 (s : State) (v : Word) (rd : Nat) (pd : Nat) : (s.retire v rd pd).lBru2 = s.lBru2 := rfl
@[simp] theorem State.retire_lMem1 (s : State) (v : Word) (rd : Nat) (pd : Nat) : (s.retire v rd pd).lMem1 = s.lMem1 := rfl
@[simp] theorem State.retire_memPass (s : State) (v : Word) (rd : Nat) (pd : Nat) : (s.retire v rd pd).memPass = s.memPass := rfl
@[simp] theorem State.retire_lAcc (s : State) (v : Word) (rd : Nat) (pd : Nat) : (s.retire v rd pd).lAcc = s.lAcc := rfl
@[simp] theorem State.retire_dmem (s : State) (v : Word) (rd : Nat) (pd : Nat) : (s.retire v rd pd).dmem = s.dmem := rfl
@[simp] theorem State.retire_xlen (s : State) (v : Word) (rd : Nat) (pd : Nat) : (s.retire v rd pd).xlen = s.xlen := rfl
@[simp] theorem State.retire_insnBytes (s : State) (v : Word) (rd : Nat) (pd : Nat) : (s.retire v rd pd).insnBytes = s.insnBytes := rfl
@[simp] theorem State.retire_basePc (s : State) (v : Word) (rd : Nat) (pd : Nat) : (s.retire v rd pd).basePc = s.basePc := rfl
@[simp] theorem State.retire_dmemSize (s : State) (v : Word) (rd : Nat) (pd : Nat) : (s.retire v rd pd).dmemSize = s.dmemSize := rfl
@[simp] theorem State.retire_stage (s : State) (v : Word) (rd : Nat) (pd : Nat) : (s.retire v rd pd).stage = s.stage := rfl

@[simp] theorem State.renameDest_prf (s : State) (rd : Nat) (pd : Nat) : (s.renameDest rd pd).prf = claimSlot s.prf pd := rfl
@[simp] theorem State.renameDest_srat (s : State) (rd : Nat) (pd : Nat) : (s.renameDest rd pd).srat = s.srat.set rd (some pd) := rfl
@[simp] theorem State.renameDest_rrat (s : State) (rd : Nat) (pd : Nat) : (s.renameDest rd pd).rrat = s.rrat := rfl
@[simp] theorem State.renameDest_pc (s : State) (rd : Nat) (pd : Nat) : (s.renameDest rd pd).pc = s.pc := rfl
@[simp] theorem State.renameDest_z (s : State) (rd : Nat) (pd : Nat) : (s.renameDest rd pd).z = s.z := rfl
@[simp] theorem State.renameDest_branchPending (s : State) (rd : Nat) (pd : Nat) : (s.renameDest rd pd).branchPending = s.branchPending := rfl
@[simp] theorem State.renameDest_redirect (s : State) (rd : Nat) (pd : Nat) : (s.renameDest rd pd).redirect = s.redirect := rfl
@[simp] theorem State.renameDest_halted (s : State) (rd : Nat) (pd : Nat) : (s.renameDest rd pd).halted = s.halted := rfl
@[simp] theorem State.renameDest_haltRetired (s : State) (rd : Nat) (pd : Nat) : (s.renameDest rd pd).haltRetired = s.haltRetired := rfl
@[simp] theorem State.renameDest_fault (s : State) (rd : Nat) (pd : Nat) : (s.renameDest rd pd).fault = s.fault := rfl
@[simp] theorem State.renameDest_lf (s : State) (rd : Nat) (pd : Nat) : (s.renameDest rd pd).lf = s.lf := rfl
@[simp] theorem State.renameDest_ld (s : State) (rd : Nat) (pd : Nat) : (s.renameDest rd pd).ld = s.ld := rfl
@[simp] theorem State.renameDest_iq (s : State) (rd : Nat) (pd : Nat) : (s.renameDest rd pd).iq = s.iq := rfl
@[simp] theorem State.renameDest_rob (s : State) (rd : Nat) (pd : Nat) : (s.renameDest rd pd).rob = s.rob := rfl
@[simp] theorem State.renameDest_head (s : State) (rd : Nat) (pd : Nat) : (s.renameDest rd pd).head = s.head := rfl
@[simp] theorem State.renameDest_tail (s : State) (rd : Nat) (pd : Nat) : (s.renameDest rd pd).tail = s.tail := rfl
@[simp] theorem State.renameDest_count (s : State) (rd : Nat) (pd : Nat) : (s.renameDest rd pd).count = s.count := rfl
@[simp] theorem State.renameDest_imem (s : State) (rd : Nat) (pd : Nat) : (s.renameDest rd pd).imem = s.imem := rfl
@[simp] theorem State.renameDest_lInt (s : State) (rd : Nat) (pd : Nat) : (s.renameDest rd pd).lInt = s.lInt := rfl
@[simp] theorem State.renameDest_lMul1 (s : State) (rd : Nat) (pd : Nat) : (s.renameDest rd pd).lMul1 = s.lMul1 := rfl
@[simp] theorem State.renameDest_lMul2 (s : State) (rd : Nat) (pd : Nat) : (s.renameDest rd pd).lMul2 = s.lMul2 := rfl
@[simp] theorem State.renameDest_lMul3 (s : State) (rd : Nat) (pd : Nat) : (s.renameDest rd pd).lMul3 = s.lMul3 := rfl
@[simp] theorem State.renameDest_lBru1 (s : State) (rd : Nat) (pd : Nat) : (s.renameDest rd pd).lBru1 = s.lBru1 := rfl
@[simp] theorem State.renameDest_lBru2 (s : State) (rd : Nat) (pd : Nat) : (s.renameDest rd pd).lBru2 = s.lBru2 := rfl
@[simp] theorem State.renameDest_lMem1 (s : State) (rd : Nat) (pd : Nat) : (s.renameDest rd pd).lMem1 = s.lMem1 := rfl
@[simp] theorem State.renameDest_memPass (s : State) (rd : Nat) (pd : Nat) : (s.renameDest rd pd).memPass = s.memPass := rfl
@[simp] theorem State.renameDest_lAcc (s : State) (rd : Nat) (pd : Nat) : (s.renameDest rd pd).lAcc = s.lAcc := rfl
@[simp] theorem State.renameDest_dmem (s : State) (rd : Nat) (pd : Nat) : (s.renameDest rd pd).dmem = s.dmem := rfl
@[simp] theorem State.renameDest_xlen (s : State) (rd : Nat) (pd : Nat) : (s.renameDest rd pd).xlen = s.xlen := rfl
@[simp] theorem State.renameDest_insnBytes (s : State) (rd : Nat) (pd : Nat) : (s.renameDest rd pd).insnBytes = s.insnBytes := rfl
@[simp] theorem State.renameDest_basePc (s : State) (rd : Nat) (pd : Nat) : (s.renameDest rd pd).basePc = s.basePc := rfl
@[simp] theorem State.renameDest_dmemSize (s : State) (rd : Nat) (pd : Nat) : (s.renameDest rd pd).dmemSize = s.dmemSize := rfl
@[simp] theorem State.renameDest_stage (s : State) (rd : Nat) (pd : Nat) : (s.renameDest rd pd).stage = s.stage := rfl

@[simp] theorem State.resync_prf (s : State) : (s.resync).prf = s.prf := rfl
@[simp] theorem State.resync_srat (s : State) : (s.resync).srat = s.rrat := rfl
@[simp] theorem State.resync_rrat (s : State) : (s.resync).rrat = s.rrat := rfl
@[simp] theorem State.resync_pc (s : State) : (s.resync).pc = s.pc := rfl
@[simp] theorem State.resync_z (s : State) : (s.resync).z = s.z := rfl
@[simp] theorem State.resync_branchPending (s : State) : (s.resync).branchPending = s.branchPending := rfl
@[simp] theorem State.resync_redirect (s : State) : (s.resync).redirect = s.redirect := rfl
@[simp] theorem State.resync_halted (s : State) : (s.resync).halted = s.halted := rfl
@[simp] theorem State.resync_haltRetired (s : State) : (s.resync).haltRetired = s.haltRetired := rfl
@[simp] theorem State.resync_fault (s : State) : (s.resync).fault = s.fault := rfl
@[simp] theorem State.resync_lf (s : State) : (s.resync).lf = s.lf := rfl
@[simp] theorem State.resync_ld (s : State) : (s.resync).ld = s.ld := rfl
@[simp] theorem State.resync_iq (s : State) : (s.resync).iq = s.iq := rfl
@[simp] theorem State.resync_rob (s : State) : (s.resync).rob = s.rob := rfl
@[simp] theorem State.resync_head (s : State) : (s.resync).head = s.head := rfl
@[simp] theorem State.resync_tail (s : State) : (s.resync).tail = s.tail := rfl
@[simp] theorem State.resync_count (s : State) : (s.resync).count = s.count := rfl
@[simp] theorem State.resync_imem (s : State) : (s.resync).imem = s.imem := rfl
@[simp] theorem State.resync_lInt (s : State) : (s.resync).lInt = s.lInt := rfl
@[simp] theorem State.resync_lMul1 (s : State) : (s.resync).lMul1 = s.lMul1 := rfl
@[simp] theorem State.resync_lMul2 (s : State) : (s.resync).lMul2 = s.lMul2 := rfl
@[simp] theorem State.resync_lMul3 (s : State) : (s.resync).lMul3 = s.lMul3 := rfl
@[simp] theorem State.resync_lBru1 (s : State) : (s.resync).lBru1 = s.lBru1 := rfl
@[simp] theorem State.resync_lBru2 (s : State) : (s.resync).lBru2 = s.lBru2 := rfl
@[simp] theorem State.resync_lMem1 (s : State) : (s.resync).lMem1 = s.lMem1 := rfl
@[simp] theorem State.resync_memPass (s : State) : (s.resync).memPass = s.memPass := rfl
@[simp] theorem State.resync_lAcc (s : State) : (s.resync).lAcc = s.lAcc := rfl
@[simp] theorem State.resync_dmem (s : State) : (s.resync).dmem = s.dmem := rfl
@[simp] theorem State.resync_xlen (s : State) : (s.resync).xlen = s.xlen := rfl
@[simp] theorem State.resync_insnBytes (s : State) : (s.resync).insnBytes = s.insnBytes := rfl
@[simp] theorem State.resync_basePc (s : State) : (s.resync).basePc = s.basePc := rfl
@[simp] theorem State.resync_dmemSize (s : State) : (s.resync).dmemSize = s.dmemSize := rfl
@[simp] theorem State.resync_stage (s : State) : (s.resync).stage = s.stage := rfl

@[simp] theorem State.robUpdate_prf (s : State) (i : Nat) (f : RobEntry → RobEntry) : (s.robUpdate i f).prf = s.prf := rfl
@[simp] theorem State.robUpdate_srat (s : State) (i : Nat) (f : RobEntry → RobEntry) : (s.robUpdate i f).srat = s.srat := rfl
@[simp] theorem State.robUpdate_rrat (s : State) (i : Nat) (f : RobEntry → RobEntry) : (s.robUpdate i f).rrat = s.rrat := rfl
@[simp] theorem State.robUpdate_pc (s : State) (i : Nat) (f : RobEntry → RobEntry) : (s.robUpdate i f).pc = s.pc := rfl
@[simp] theorem State.robUpdate_z (s : State) (i : Nat) (f : RobEntry → RobEntry) : (s.robUpdate i f).z = s.z := rfl
@[simp] theorem State.robUpdate_branchPending (s : State) (i : Nat) (f : RobEntry → RobEntry) : (s.robUpdate i f).branchPending = s.branchPending := rfl
@[simp] theorem State.robUpdate_redirect (s : State) (i : Nat) (f : RobEntry → RobEntry) : (s.robUpdate i f).redirect = s.redirect := rfl
@[simp] theorem State.robUpdate_halted (s : State) (i : Nat) (f : RobEntry → RobEntry) : (s.robUpdate i f).halted = s.halted := rfl
@[simp] theorem State.robUpdate_haltRetired (s : State) (i : Nat) (f : RobEntry → RobEntry) : (s.robUpdate i f).haltRetired = s.haltRetired := rfl
@[simp] theorem State.robUpdate_fault (s : State) (i : Nat) (f : RobEntry → RobEntry) : (s.robUpdate i f).fault = s.fault := rfl
@[simp] theorem State.robUpdate_lf (s : State) (i : Nat) (f : RobEntry → RobEntry) : (s.robUpdate i f).lf = s.lf := rfl
@[simp] theorem State.robUpdate_ld (s : State) (i : Nat) (f : RobEntry → RobEntry) : (s.robUpdate i f).ld = s.ld := rfl
@[simp] theorem State.robUpdate_iq (s : State) (i : Nat) (f : RobEntry → RobEntry) : (s.robUpdate i f).iq = s.iq := rfl
@[simp] theorem State.robUpdate_rob (s : State) (i : Nat) (f : RobEntry → RobEntry) : (s.robUpdate i f).rob = s.rob.modify i (Option.map f) := rfl
@[simp] theorem State.robUpdate_head (s : State) (i : Nat) (f : RobEntry → RobEntry) : (s.robUpdate i f).head = s.head := rfl
@[simp] theorem State.robUpdate_tail (s : State) (i : Nat) (f : RobEntry → RobEntry) : (s.robUpdate i f).tail = s.tail := rfl
@[simp] theorem State.robUpdate_count (s : State) (i : Nat) (f : RobEntry → RobEntry) : (s.robUpdate i f).count = s.count := rfl
@[simp] theorem State.robUpdate_imem (s : State) (i : Nat) (f : RobEntry → RobEntry) : (s.robUpdate i f).imem = s.imem := rfl
@[simp] theorem State.robUpdate_lInt (s : State) (i : Nat) (f : RobEntry → RobEntry) : (s.robUpdate i f).lInt = s.lInt := rfl
@[simp] theorem State.robUpdate_lMul1 (s : State) (i : Nat) (f : RobEntry → RobEntry) : (s.robUpdate i f).lMul1 = s.lMul1 := rfl
@[simp] theorem State.robUpdate_lMul2 (s : State) (i : Nat) (f : RobEntry → RobEntry) : (s.robUpdate i f).lMul2 = s.lMul2 := rfl
@[simp] theorem State.robUpdate_lMul3 (s : State) (i : Nat) (f : RobEntry → RobEntry) : (s.robUpdate i f).lMul3 = s.lMul3 := rfl
@[simp] theorem State.robUpdate_lBru1 (s : State) (i : Nat) (f : RobEntry → RobEntry) : (s.robUpdate i f).lBru1 = s.lBru1 := rfl
@[simp] theorem State.robUpdate_lBru2 (s : State) (i : Nat) (f : RobEntry → RobEntry) : (s.robUpdate i f).lBru2 = s.lBru2 := rfl
@[simp] theorem State.robUpdate_lMem1 (s : State) (i : Nat) (f : RobEntry → RobEntry) : (s.robUpdate i f).lMem1 = s.lMem1 := rfl
@[simp] theorem State.robUpdate_memPass (s : State) (i : Nat) (f : RobEntry → RobEntry) : (s.robUpdate i f).memPass = s.memPass := rfl
@[simp] theorem State.robUpdate_lAcc (s : State) (i : Nat) (f : RobEntry → RobEntry) : (s.robUpdate i f).lAcc = s.lAcc := rfl
@[simp] theorem State.robUpdate_dmem (s : State) (i : Nat) (f : RobEntry → RobEntry) : (s.robUpdate i f).dmem = s.dmem := rfl
@[simp] theorem State.robUpdate_xlen (s : State) (i : Nat) (f : RobEntry → RobEntry) : (s.robUpdate i f).xlen = s.xlen := rfl
@[simp] theorem State.robUpdate_insnBytes (s : State) (i : Nat) (f : RobEntry → RobEntry) : (s.robUpdate i f).insnBytes = s.insnBytes := rfl
@[simp] theorem State.robUpdate_basePc (s : State) (i : Nat) (f : RobEntry → RobEntry) : (s.robUpdate i f).basePc = s.basePc := rfl
@[simp] theorem State.robUpdate_dmemSize (s : State) (i : Nat) (f : RobEntry → RobEntry) : (s.robUpdate i f).dmemSize = s.dmemSize := rfl
@[simp] theorem State.robUpdate_stage (s : State) (i : Nat) (f : RobEntry → RobEntry) : (s.robUpdate i f).stage = s.stage := rfl

@[simp] theorem State.pop_prf (s : State) : (s.pop).prf = s.prf := rfl
@[simp] theorem State.pop_srat (s : State) : (s.pop).srat = s.srat := rfl
@[simp] theorem State.pop_rrat (s : State) : (s.pop).rrat = s.rrat := rfl
@[simp] theorem State.pop_pc (s : State) : (s.pop).pc = s.pc := rfl
@[simp] theorem State.pop_z (s : State) : (s.pop).z = s.z := rfl
@[simp] theorem State.pop_branchPending (s : State) : (s.pop).branchPending = s.branchPending := rfl
@[simp] theorem State.pop_redirect (s : State) : (s.pop).redirect = s.redirect := rfl
@[simp] theorem State.pop_halted (s : State) : (s.pop).halted = s.halted := rfl
@[simp] theorem State.pop_haltRetired (s : State) : (s.pop).haltRetired = s.haltRetired := rfl
@[simp] theorem State.pop_fault (s : State) : (s.pop).fault = s.fault := rfl
@[simp] theorem State.pop_lf (s : State) : (s.pop).lf = s.lf := rfl
@[simp] theorem State.pop_ld (s : State) : (s.pop).ld = s.ld := rfl
@[simp] theorem State.pop_iq (s : State) : (s.pop).iq = s.iq := rfl
@[simp] theorem State.pop_rob (s : State) : (s.pop).rob = s.rob.set s.head none := rfl
@[simp] theorem State.pop_head (s : State) : (s.pop).head = (s.head + 1) % s.rob.length := rfl
@[simp] theorem State.pop_tail (s : State) : (s.pop).tail = s.tail := rfl
@[simp] theorem State.pop_count (s : State) : (s.pop).count = s.count - 1 := rfl
@[simp] theorem State.pop_imem (s : State) : (s.pop).imem = s.imem := rfl
@[simp] theorem State.pop_lInt (s : State) : (s.pop).lInt = s.lInt := rfl
@[simp] theorem State.pop_lMul1 (s : State) : (s.pop).lMul1 = s.lMul1 := rfl
@[simp] theorem State.pop_lMul2 (s : State) : (s.pop).lMul2 = s.lMul2 := rfl
@[simp] theorem State.pop_lMul3 (s : State) : (s.pop).lMul3 = s.lMul3 := rfl
@[simp] theorem State.pop_lBru1 (s : State) : (s.pop).lBru1 = s.lBru1 := rfl
@[simp] theorem State.pop_lBru2 (s : State) : (s.pop).lBru2 = s.lBru2 := rfl
@[simp] theorem State.pop_lMem1 (s : State) : (s.pop).lMem1 = s.lMem1 := rfl
@[simp] theorem State.pop_memPass (s : State) : (s.pop).memPass = s.memPass := rfl
@[simp] theorem State.pop_lAcc (s : State) : (s.pop).lAcc = s.lAcc := rfl
@[simp] theorem State.pop_dmem (s : State) : (s.pop).dmem = s.dmem := rfl
@[simp] theorem State.pop_xlen (s : State) : (s.pop).xlen = s.xlen := rfl
@[simp] theorem State.pop_insnBytes (s : State) : (s.pop).insnBytes = s.insnBytes := rfl
@[simp] theorem State.pop_basePc (s : State) : (s.pop).basePc = s.basePc := rfl
@[simp] theorem State.pop_dmemSize (s : State) : (s.pop).dmemSize = s.dmemSize := rfl
@[simp] theorem State.pop_stage (s : State) : (s.pop).stage = s.stage := rfl

@[simp] theorem State.push_prf (s : State) (e : RobEntry) : (s.push e).prf = s.prf := rfl
@[simp] theorem State.push_srat (s : State) (e : RobEntry) : (s.push e).srat = s.srat := rfl
@[simp] theorem State.push_rrat (s : State) (e : RobEntry) : (s.push e).rrat = s.rrat := rfl
@[simp] theorem State.push_pc (s : State) (e : RobEntry) : (s.push e).pc = s.pc := rfl
@[simp] theorem State.push_z (s : State) (e : RobEntry) : (s.push e).z = s.z := rfl
@[simp] theorem State.push_branchPending (s : State) (e : RobEntry) : (s.push e).branchPending = s.branchPending := rfl
@[simp] theorem State.push_redirect (s : State) (e : RobEntry) : (s.push e).redirect = s.redirect := rfl
@[simp] theorem State.push_halted (s : State) (e : RobEntry) : (s.push e).halted = s.halted := rfl
@[simp] theorem State.push_haltRetired (s : State) (e : RobEntry) : (s.push e).haltRetired = s.haltRetired := rfl
@[simp] theorem State.push_fault (s : State) (e : RobEntry) : (s.push e).fault = s.fault := rfl
@[simp] theorem State.push_lf (s : State) (e : RobEntry) : (s.push e).lf = s.lf := rfl
@[simp] theorem State.push_ld (s : State) (e : RobEntry) : (s.push e).ld = s.ld := rfl
@[simp] theorem State.push_iq (s : State) (e : RobEntry) : (s.push e).iq = s.iq := rfl
@[simp] theorem State.push_rob (s : State) (e : RobEntry) : (s.push e).rob = s.rob.set s.tail (some e) := rfl
@[simp] theorem State.push_head (s : State) (e : RobEntry) : (s.push e).head = s.head := rfl
@[simp] theorem State.push_tail (s : State) (e : RobEntry) : (s.push e).tail = (s.tail + 1) % s.rob.length := rfl
@[simp] theorem State.push_count (s : State) (e : RobEntry) : (s.push e).count = s.count + 1 := rfl
@[simp] theorem State.push_imem (s : State) (e : RobEntry) : (s.push e).imem = s.imem := rfl
@[simp] theorem State.push_lInt (s : State) (e : RobEntry) : (s.push e).lInt = s.lInt := rfl
@[simp] theorem State.push_lMul1 (s : State) (e : RobEntry) : (s.push e).lMul1 = s.lMul1 := rfl
@[simp] theorem State.push_lMul2 (s : State) (e : RobEntry) : (s.push e).lMul2 = s.lMul2 := rfl
@[simp] theorem State.push_lMul3 (s : State) (e : RobEntry) : (s.push e).lMul3 = s.lMul3 := rfl
@[simp] theorem State.push_lBru1 (s : State) (e : RobEntry) : (s.push e).lBru1 = s.lBru1 := rfl
@[simp] theorem State.push_lBru2 (s : State) (e : RobEntry) : (s.push e).lBru2 = s.lBru2 := rfl
@[simp] theorem State.push_lMem1 (s : State) (e : RobEntry) : (s.push e).lMem1 = s.lMem1 := rfl
@[simp] theorem State.push_memPass (s : State) (e : RobEntry) : (s.push e).memPass = s.memPass := rfl
@[simp] theorem State.push_lAcc (s : State) (e : RobEntry) : (s.push e).lAcc = s.lAcc := rfl
@[simp] theorem State.push_dmem (s : State) (e : RobEntry) : (s.push e).dmem = s.dmem := rfl
@[simp] theorem State.push_xlen (s : State) (e : RobEntry) : (s.push e).xlen = s.xlen := rfl
@[simp] theorem State.push_insnBytes (s : State) (e : RobEntry) : (s.push e).insnBytes = s.insnBytes := rfl
@[simp] theorem State.push_basePc (s : State) (e : RobEntry) : (s.push e).basePc = s.basePc := rfl
@[simp] theorem State.push_dmemSize (s : State) (e : RobEntry) : (s.push e).dmemSize = s.dmemSize := rfl
@[simp] theorem State.push_stage (s : State) (e : RobEntry) : (s.push e).stage = s.stage := rfl

@[simp] theorem State.robReset_prf (s : State) (a : Word) : (s.robReset a).prf = freeDests s.prf s.inFlight := rfl
@[simp] theorem State.robReset_srat (s : State) (a : Word) : (s.robReset a).srat = s.rrat := rfl
@[simp] theorem State.robReset_rrat (s : State) (a : Word) : (s.robReset a).rrat = s.rrat := rfl
@[simp] theorem State.robReset_pc (s : State) (a : Word) : (s.robReset a).pc = a := rfl
@[simp] theorem State.robReset_z (s : State) (a : Word) : (s.robReset a).z = s.z := rfl
@[simp] theorem State.robReset_branchPending (s : State) (a : Word) : (s.robReset a).branchPending = false := rfl
@[simp] theorem State.robReset_redirect (s : State) (a : Word) : (s.robReset a).redirect = true := rfl
@[simp] theorem State.robReset_halted (s : State) (a : Word) : (s.robReset a).halted = s.halted := rfl
@[simp] theorem State.robReset_haltRetired (s : State) (a : Word) : (s.robReset a).haltRetired = s.haltRetired := rfl
@[simp] theorem State.robReset_fault (s : State) (a : Word) : (s.robReset a).fault = s.fault := rfl
@[simp] theorem State.robReset_lf (s : State) (a : Word) : (s.robReset a).lf = none := rfl
@[simp] theorem State.robReset_ld (s : State) (a : Word) : (s.robReset a).ld = none := rfl
@[simp] theorem State.robReset_iq (s : State) (a : Word) : (s.robReset a).iq = s.iq.map (fun _ => none) := rfl
@[simp] theorem State.robReset_rob (s : State) (a : Word) : (s.robReset a).rob = s.rob.map (fun _ => none) := rfl
@[simp] theorem State.robReset_head (s : State) (a : Word) : (s.robReset a).head = 0 := rfl
@[simp] theorem State.robReset_tail (s : State) (a : Word) : (s.robReset a).tail = 0 := rfl
@[simp] theorem State.robReset_count (s : State) (a : Word) : (s.robReset a).count = 0 := rfl
@[simp] theorem State.robReset_imem (s : State) (a : Word) : (s.robReset a).imem = s.imem := rfl
@[simp] theorem State.robReset_lInt (s : State) (a : Word) : (s.robReset a).lInt = none := rfl
@[simp] theorem State.robReset_lMul1 (s : State) (a : Word) : (s.robReset a).lMul1 = none := rfl
@[simp] theorem State.robReset_lMul2 (s : State) (a : Word) : (s.robReset a).lMul2 = none := rfl
@[simp] theorem State.robReset_lMul3 (s : State) (a : Word) : (s.robReset a).lMul3 = none := rfl
@[simp] theorem State.robReset_lBru1 (s : State) (a : Word) : (s.robReset a).lBru1 = none := rfl
@[simp] theorem State.robReset_lBru2 (s : State) (a : Word) : (s.robReset a).lBru2 = none := rfl
@[simp] theorem State.robReset_lMem1 (s : State) (a : Word) : (s.robReset a).lMem1 = none := rfl
@[simp] theorem State.robReset_memPass (s : State) (a : Word) : (s.robReset a).memPass = s.memPass.map (fun _ => none) := rfl
@[simp] theorem State.robReset_lAcc (s : State) (a : Word) : (s.robReset a).lAcc = none := rfl
@[simp] theorem State.robReset_dmem (s : State) (a : Word) : (s.robReset a).dmem = s.dmem := rfl
@[simp] theorem State.robReset_xlen (s : State) (a : Word) : (s.robReset a).xlen = s.xlen := rfl
@[simp] theorem State.robReset_insnBytes (s : State) (a : Word) : (s.robReset a).insnBytes = s.insnBytes := rfl
@[simp] theorem State.robReset_basePc (s : State) (a : Word) : (s.robReset a).basePc = s.basePc := rfl
@[simp] theorem State.robReset_dmemSize (s : State) (a : Word) : (s.robReset a).dmemSize = s.dmemSize := rfl
@[simp] theorem State.robReset_stage (s : State) (a : Word) : (s.robReset a).stage = s.stage := rfl

@[simp] theorem State.squash_prf (s : State) (a : Word) : (s.squash a).prf = s.prf := rfl
@[simp] theorem State.squash_srat (s : State) (a : Word) : (s.squash a).srat = s.srat := rfl
@[simp] theorem State.squash_rrat (s : State) (a : Word) : (s.squash a).rrat = s.rrat := rfl
@[simp] theorem State.squash_pc (s : State) (a : Word) : (s.squash a).pc = a := rfl
@[simp] theorem State.squash_z (s : State) (a : Word) : (s.squash a).z = s.z := rfl
@[simp] theorem State.squash_branchPending (s : State) (a : Word) : (s.squash a).branchPending = s.branchPending := rfl
@[simp] theorem State.squash_redirect (s : State) (a : Word) : (s.squash a).redirect = s.redirect := rfl
@[simp] theorem State.squash_halted (s : State) (a : Word) : (s.squash a).halted = s.halted := rfl
@[simp] theorem State.squash_haltRetired (s : State) (a : Word) : (s.squash a).haltRetired = s.haltRetired := rfl
@[simp] theorem State.squash_fault (s : State) (a : Word) : (s.squash a).fault = s.fault := rfl
@[simp] theorem State.squash_lf (s : State) (a : Word) : (s.squash a).lf = none := rfl
@[simp] theorem State.squash_ld (s : State) (a : Word) : (s.squash a).ld = none := rfl
@[simp] theorem State.squash_iq (s : State) (a : Word) : (s.squash a).iq = s.iq.map (fun _ => none) := rfl
@[simp] theorem State.squash_rob (s : State) (a : Word) : (s.squash a).rob = s.rob := rfl
@[simp] theorem State.squash_head (s : State) (a : Word) : (s.squash a).head = s.head := rfl
@[simp] theorem State.squash_tail (s : State) (a : Word) : (s.squash a).tail = s.tail := rfl
@[simp] theorem State.squash_count (s : State) (a : Word) : (s.squash a).count = s.count := rfl
@[simp] theorem State.squash_imem (s : State) (a : Word) : (s.squash a).imem = s.imem := rfl
@[simp] theorem State.squash_lInt (s : State) (a : Word) : (s.squash a).lInt = s.lInt := rfl
@[simp] theorem State.squash_lMul1 (s : State) (a : Word) : (s.squash a).lMul1 = s.lMul1 := rfl
@[simp] theorem State.squash_lMul2 (s : State) (a : Word) : (s.squash a).lMul2 = s.lMul2 := rfl
@[simp] theorem State.squash_lMul3 (s : State) (a : Word) : (s.squash a).lMul3 = s.lMul3 := rfl
@[simp] theorem State.squash_lBru1 (s : State) (a : Word) : (s.squash a).lBru1 = s.lBru1 := rfl
@[simp] theorem State.squash_lBru2 (s : State) (a : Word) : (s.squash a).lBru2 = s.lBru2 := rfl
@[simp] theorem State.squash_lMem1 (s : State) (a : Word) : (s.squash a).lMem1 = s.lMem1 := rfl
@[simp] theorem State.squash_memPass (s : State) (a : Word) : (s.squash a).memPass = s.memPass := rfl
@[simp] theorem State.squash_lAcc (s : State) (a : Word) : (s.squash a).lAcc = s.lAcc := rfl
@[simp] theorem State.squash_dmem (s : State) (a : Word) : (s.squash a).dmem = s.dmem := rfl
@[simp] theorem State.squash_xlen (s : State) (a : Word) : (s.squash a).xlen = s.xlen := rfl
@[simp] theorem State.squash_insnBytes (s : State) (a : Word) : (s.squash a).insnBytes = s.insnBytes := rfl
@[simp] theorem State.squash_basePc (s : State) (a : Word) : (s.squash a).basePc = s.basePc := rfl
@[simp] theorem State.squash_dmemSize (s : State) (a : Word) : (s.squash a).dmemSize = s.dmemSize := rfl
@[simp] theorem State.squash_stage (s : State) (a : Word) : (s.squash a).stage = s.stage := rfl

@[simp] theorem State.releaseFetch_prf (s : State) : (s.releaseFetch).prf = s.prf := rfl
@[simp] theorem State.releaseFetch_srat (s : State) : (s.releaseFetch).srat = s.srat := rfl
@[simp] theorem State.releaseFetch_rrat (s : State) : (s.releaseFetch).rrat = s.rrat := rfl
@[simp] theorem State.releaseFetch_pc (s : State) : (s.releaseFetch).pc = s.pc := rfl
@[simp] theorem State.releaseFetch_z (s : State) : (s.releaseFetch).z = s.z := rfl
@[simp] theorem State.releaseFetch_branchPending (s : State) : (s.releaseFetch).branchPending = false := rfl
@[simp] theorem State.releaseFetch_redirect (s : State) : (s.releaseFetch).redirect = true := rfl
@[simp] theorem State.releaseFetch_halted (s : State) : (s.releaseFetch).halted = s.halted := rfl
@[simp] theorem State.releaseFetch_haltRetired (s : State) : (s.releaseFetch).haltRetired = s.haltRetired := rfl
@[simp] theorem State.releaseFetch_fault (s : State) : (s.releaseFetch).fault = s.fault := rfl
@[simp] theorem State.releaseFetch_lf (s : State) : (s.releaseFetch).lf = s.lf := rfl
@[simp] theorem State.releaseFetch_ld (s : State) : (s.releaseFetch).ld = s.ld := rfl
@[simp] theorem State.releaseFetch_iq (s : State) : (s.releaseFetch).iq = s.iq := rfl
@[simp] theorem State.releaseFetch_rob (s : State) : (s.releaseFetch).rob = s.rob := rfl
@[simp] theorem State.releaseFetch_head (s : State) : (s.releaseFetch).head = s.head := rfl
@[simp] theorem State.releaseFetch_tail (s : State) : (s.releaseFetch).tail = s.tail := rfl
@[simp] theorem State.releaseFetch_count (s : State) : (s.releaseFetch).count = s.count := rfl
@[simp] theorem State.releaseFetch_imem (s : State) : (s.releaseFetch).imem = s.imem := rfl
@[simp] theorem State.releaseFetch_lInt (s : State) : (s.releaseFetch).lInt = s.lInt := rfl
@[simp] theorem State.releaseFetch_lMul1 (s : State) : (s.releaseFetch).lMul1 = s.lMul1 := rfl
@[simp] theorem State.releaseFetch_lMul2 (s : State) : (s.releaseFetch).lMul2 = s.lMul2 := rfl
@[simp] theorem State.releaseFetch_lMul3 (s : State) : (s.releaseFetch).lMul3 = s.lMul3 := rfl
@[simp] theorem State.releaseFetch_lBru1 (s : State) : (s.releaseFetch).lBru1 = s.lBru1 := rfl
@[simp] theorem State.releaseFetch_lBru2 (s : State) : (s.releaseFetch).lBru2 = s.lBru2 := rfl
@[simp] theorem State.releaseFetch_lMem1 (s : State) : (s.releaseFetch).lMem1 = s.lMem1 := rfl
@[simp] theorem State.releaseFetch_memPass (s : State) : (s.releaseFetch).memPass = s.memPass := rfl
@[simp] theorem State.releaseFetch_lAcc (s : State) : (s.releaseFetch).lAcc = s.lAcc := rfl
@[simp] theorem State.releaseFetch_dmem (s : State) : (s.releaseFetch).dmem = s.dmem := rfl
@[simp] theorem State.releaseFetch_xlen (s : State) : (s.releaseFetch).xlen = s.xlen := rfl
@[simp] theorem State.releaseFetch_insnBytes (s : State) : (s.releaseFetch).insnBytes = s.insnBytes := rfl
@[simp] theorem State.releaseFetch_basePc (s : State) : (s.releaseFetch).basePc = s.basePc := rfl
@[simp] theorem State.releaseFetch_dmemSize (s : State) : (s.releaseFetch).dmemSize = s.dmemSize := rfl
@[simp] theorem State.releaseFetch_stage (s : State) : (s.releaseFetch).stage = s.stage := rfl

@[simp] theorem startCycle_prf (s : State) : (startCycle s).prf = s.prf := rfl
@[simp] theorem startCycle_srat (s : State) : (startCycle s).srat = s.srat := rfl
@[simp] theorem startCycle_rrat (s : State) : (startCycle s).rrat = s.rrat := rfl
@[simp] theorem startCycle_pc (s : State) : (startCycle s).pc = s.pc := rfl
@[simp] theorem startCycle_z (s : State) : (startCycle s).z = s.z := rfl
@[simp] theorem startCycle_branchPending (s : State) : (startCycle s).branchPending = s.branchPending := rfl
@[simp] theorem startCycle_redirect (s : State) : (startCycle s).redirect = false := rfl
@[simp] theorem startCycle_halted (s : State) : (startCycle s).halted = s.halted := rfl
@[simp] theorem startCycle_haltRetired (s : State) : (startCycle s).haltRetired = false := rfl
@[simp] theorem startCycle_fault (s : State) : (startCycle s).fault = s.fault := rfl
@[simp] theorem startCycle_lf (s : State) : (startCycle s).lf = s.lf := rfl
@[simp] theorem startCycle_ld (s : State) : (startCycle s).ld = s.ld := rfl
@[simp] theorem startCycle_iq (s : State) : (startCycle s).iq = s.iq := rfl
@[simp] theorem startCycle_rob (s : State) : (startCycle s).rob = s.rob := rfl
@[simp] theorem startCycle_head (s : State) : (startCycle s).head = s.head := rfl
@[simp] theorem startCycle_tail (s : State) : (startCycle s).tail = s.tail := rfl
@[simp] theorem startCycle_count (s : State) : (startCycle s).count = s.count := rfl
@[simp] theorem startCycle_imem (s : State) : (startCycle s).imem = s.imem := rfl
@[simp] theorem startCycle_lInt (s : State) : (startCycle s).lInt = s.lInt := rfl
@[simp] theorem startCycle_lMul1 (s : State) : (startCycle s).lMul1 = s.lMul1 := rfl
@[simp] theorem startCycle_lMul2 (s : State) : (startCycle s).lMul2 = s.lMul2 := rfl
@[simp] theorem startCycle_lMul3 (s : State) : (startCycle s).lMul3 = s.lMul3 := rfl
@[simp] theorem startCycle_lBru1 (s : State) : (startCycle s).lBru1 = s.lBru1 := rfl
@[simp] theorem startCycle_lBru2 (s : State) : (startCycle s).lBru2 = s.lBru2 := rfl
@[simp] theorem startCycle_lMem1 (s : State) : (startCycle s).lMem1 = s.lMem1 := rfl
@[simp] theorem startCycle_memPass (s : State) : (startCycle s).memPass = s.memPass := rfl
@[simp] theorem startCycle_lAcc (s : State) : (startCycle s).lAcc = s.lAcc := rfl
@[simp] theorem startCycle_dmem (s : State) : (startCycle s).dmem = s.dmem := rfl
@[simp] theorem startCycle_xlen (s : State) : (startCycle s).xlen = s.xlen := rfl
@[simp] theorem startCycle_insnBytes (s : State) : (startCycle s).insnBytes = s.insnBytes := rfl
@[simp] theorem startCycle_basePc (s : State) : (startCycle s).basePc = s.basePc := rfl
@[simp] theorem startCycle_dmemSize (s : State) : (startCycle s).dmemSize = s.dmemSize := rfl
@[simp] theorem startCycle_stage (s : State) : (startCycle s).stage = s.stage := rfl

@[simp] theorem mulPassStage_prf (s : State) : (mulPassStage s).prf = s.prf := rfl
@[simp] theorem mulPassStage_srat (s : State) : (mulPassStage s).srat = s.srat := rfl
@[simp] theorem mulPassStage_rrat (s : State) : (mulPassStage s).rrat = s.rrat := rfl
@[simp] theorem mulPassStage_pc (s : State) : (mulPassStage s).pc = s.pc := rfl
@[simp] theorem mulPassStage_z (s : State) : (mulPassStage s).z = s.z := rfl
@[simp] theorem mulPassStage_branchPending (s : State) : (mulPassStage s).branchPending = s.branchPending := rfl
@[simp] theorem mulPassStage_redirect (s : State) : (mulPassStage s).redirect = s.redirect := rfl
@[simp] theorem mulPassStage_halted (s : State) : (mulPassStage s).halted = s.halted := rfl
@[simp] theorem mulPassStage_haltRetired (s : State) : (mulPassStage s).haltRetired = s.haltRetired := rfl
@[simp] theorem mulPassStage_fault (s : State) : (mulPassStage s).fault = s.fault := rfl
@[simp] theorem mulPassStage_lf (s : State) : (mulPassStage s).lf = s.lf := rfl
@[simp] theorem mulPassStage_ld (s : State) : (mulPassStage s).ld = s.ld := rfl
@[simp] theorem mulPassStage_iq (s : State) : (mulPassStage s).iq = s.iq := rfl
@[simp] theorem mulPassStage_rob (s : State) : (mulPassStage s).rob = s.rob := rfl
@[simp] theorem mulPassStage_head (s : State) : (mulPassStage s).head = s.head := rfl
@[simp] theorem mulPassStage_tail (s : State) : (mulPassStage s).tail = s.tail := rfl
@[simp] theorem mulPassStage_count (s : State) : (mulPassStage s).count = s.count := rfl
@[simp] theorem mulPassStage_imem (s : State) : (mulPassStage s).imem = s.imem := rfl
@[simp] theorem mulPassStage_lInt (s : State) : (mulPassStage s).lInt = s.lInt := rfl
@[simp] theorem mulPassStage_lMul1 (s : State) : (mulPassStage s).lMul1 = s.lMul1 := rfl
@[simp] theorem mulPassStage_lMul2 (s : State) : (mulPassStage s).lMul2 = none := rfl
@[simp] theorem mulPassStage_lMul3 (s : State) : (mulPassStage s).lMul3 = s.lMul2 := rfl
@[simp] theorem mulPassStage_lBru1 (s : State) : (mulPassStage s).lBru1 = s.lBru1 := rfl
@[simp] theorem mulPassStage_lBru2 (s : State) : (mulPassStage s).lBru2 = s.lBru2 := rfl
@[simp] theorem mulPassStage_lMem1 (s : State) : (mulPassStage s).lMem1 = s.lMem1 := rfl
@[simp] theorem mulPassStage_memPass (s : State) : (mulPassStage s).memPass = s.memPass := rfl
@[simp] theorem mulPassStage_lAcc (s : State) : (mulPassStage s).lAcc = s.lAcc := rfl
@[simp] theorem mulPassStage_dmem (s : State) : (mulPassStage s).dmem = s.dmem := rfl
@[simp] theorem mulPassStage_xlen (s : State) : (mulPassStage s).xlen = s.xlen := rfl
@[simp] theorem mulPassStage_insnBytes (s : State) : (mulPassStage s).insnBytes = s.insnBytes := rfl
@[simp] theorem mulPassStage_basePc (s : State) : (mulPassStage s).basePc = s.basePc := rfl
@[simp] theorem mulPassStage_dmemSize (s : State) : (mulPassStage s).dmemSize = s.dmemSize := rfl
@[simp] theorem mulPassStage_stage (s : State) : (mulPassStage s).stage = s.stage := rfl

end Sys2Proof.Machine
end

