-- ==== Sys2Proof/Laws/Ops.lean ====
section
/-! SUPPORT. For each shared operation, one lemma that says everything it can do: what exec answers at each stage, as a short list
of cases over the state the stage was given. -/

namespace Sys2Proof.Machine

theorem State.status_faulted {s : State} {f : FaultRecord} (hf : s.fault = some f) : s.status = .faulted f := by
  simp [State.status, hf]

theorem State.status_halted {s : State} (hf : s.fault = none) (hh : s.halted = true) : s.status = .halted := by
  simp [State.status, hf, hh]

theorem State.status_running {s : State} (hf : s.fault = none) (hh : s.halted = false) : s.status = .running := by
  simp [State.status, hf, hh]

/-- The meanings, for unfolding exec at a stage. -/
theorem exec_dispatch (i : Instr) (s : State) (h : s.stage = .dispatch) : exec i s = dispatch i s := by
  cases i <;> simp only [exec, execAdd, execSub, execAddl, execSubl, execAnd, execOr, execXor, execMul, execCmp, execMovc,
    execLoad, execStore, execLdr, execStr, execJump, execJal, execBz, execBnz, execNop, execHalt, h]

theorem dispatch_cases (i : Instr) (s : State) (d : Fetched) (hd : s.ld = some d) :
    (∃ r, renameSources s.srat i.srcs = .error r ∧ dispatch i s = .next (s.raiseFault (.unmappedSource d.pc r))) ∨
    (∃ ps, renameSources s.srat i.srcs = .ok ps ∧ s.stalls i ps = true ∧ dispatch i s = .next s) ∨
    (∃ ps, renameSources s.srat i.srcs = .ok ps ∧ s.stalls i ps = false ∧ dispatch i s = .next (s.allocate d.pc i ps)) := by
  unfold dispatch
  rw [hd]
  cases hr : renameSources s.srat i.srcs with
  | error r => exact .inl ⟨r, rfl, rfl⟩
  | ok ps =>
    cases hst : s.stalls i ps with
    | true => exact .inr (.inl ⟨ps, rfl, hst, by simp [hst]⟩)
    | false => exact .inr (.inr ⟨ps, rfl, hst, by simp [hst]⟩)

/-- What dispatch of `d` can answer, at a cycle boundary's stage. -/
theorem runStage_dispatch (s : State) (d : Fetched) (hs : s.stage = .dispatch) (hd : s.ld = some d) :
    (∃ r, runStage .dispatch d.insn s = .next (s.raiseFault (.unmappedSource d.pc r))) ∨
    runStage .dispatch d.insn s = .next s ∨
    (∃ ps, renameSources s.srat d.insn.srcs = .ok ps ∧ s.stalls d.insn ps = false ∧
      runStage .dispatch d.insn s = .next (s.allocate d.pc d.insn ps)) := by
  have e1 : ({ s with stage := .dispatch } : State) = s := by cases s; simp at hs; subst hs; rfl
  have e2 : ∀ t : State, t.stage = .dispatch → settle (.next t) = .next t := by
    intro t ht; cases t; simp at ht; subst ht; rfl
  unfold runStage
  rw [e1, exec_dispatch _ _ hs]
  have ha : ∀ ps, (s.allocate d.pc d.insn ps).stage = .dispatch := by
    intro ps
    simp only [State.allocate, State.claimDest, State.enqueue, State.push_stage]
    repeat' split
    all_goals simp [hs]
  rcases dispatch_cases d.insn s d hd with ⟨r, _, h⟩ | ⟨ps, _, _, h⟩ | ⟨ps, hp, hst, h⟩
  · exact .inl ⟨r, by rw [h, e2 _ (by simp [hs])]⟩
  · exact .inr (.inl (by rw [h, e2 _ hs]))
  · exact .inr (.inr ⟨ps, hp, hst, by rw [h, e2 _ (ha ps)]⟩)

/-- What commit of the head entry `e`, of instruction `i`, does to the state (R240 to R248). -/
inductive CommitEffect (i : Instr) (e : RobEntry) (s : State) : State → Prop
  | producer (rd : Nat) (h : i.dst = some rd) : CommitEffect i e s (s.retireHead rd e).pop
  | store (hi : i.dst = none) (hm : i.isMem = true) (h : s.inRange e.ea = true) :
      CommitEffect i e s (s.memWrite e.ea e.result).pop
  | storeFault (hm : i.isMem = true) (h : s.inRange e.ea = false) : CommitEffect i e s (s.raiseFault (.dmemRange e.ea))
  | plain (hi : i.dst = none) : CommitEffect i e s s.pop
  | reset (hi : i.dst = none) (hc : i.ctl = true) : CommitEffect i e s (s.pop.robReset e.ea)
  | jal (rd : Nat) (h : i.dst = some rd) (hc : i.ctl = true) : CommitEffect i e s ((s.retireHead rd e).pop.robReset e.ea)
  | halt (hi : i.dst = none) : CommitEffect i e s { s.pop with halted := true, haltRetired := true }

/-- Commit always answers a next state, and it is one of these. -/
theorem runStage_commit (i : Instr) (s : State) (e : RobEntry) (hs : s.stage = .dispatch) (he : s.headEntry = some e) :
    ∃ t, runStage .commit i s = .next t ∧ CommitEffect i e s t := by
  have hh : State.headEntry { s with stage := .commit } = some e := he
  have hp : ∀ rd, runStage .commit i s = settle (commitProducer rd { s with stage := .commit }) → i.dst = some rd →
      ∃ t, runStage .commit i s = .next t ∧ CommitEffect i e s t := by
    intro rd h hd
    refine ⟨_, ?_, .producer rd hd⟩
    rw [h, commitProducer, hh]
    cases e with | mk a b c d f pd => cases s; simp only at hs; subst hs; cases pd <;> rfl
  have hst : runStage .commit i s = settle (commitStore { s with stage := .commit }) → i.dst = none → i.isMem = true →
      ∃ t, runStage .commit i s = .next t ∧ CommitEffect i e s t := by
    intro h hd hm
    cases hr : s.inRange e.ea with
    | true =>
      refine ⟨_, ?_, .store hd hm hr⟩
      have hr' : State.inRange { s with stage := .commit } e.ea = true := hr
      rw [h, commitStore, hh]; simp only [hr', if_true]
      cases s; simp only at hs; subst hs; rfl
    | false =>
      refine ⟨_, ?_, .storeFault hm hr⟩
      have hr' : State.inRange { s with stage := .commit } e.ea = false := hr
      rw [h, commitStore, hh]; simp only [hr', Bool.false_eq_true, if_false]
      cases s; simp only at hs; subst hs; rfl
  have hb : runStage .commit i s = settle (commitBranch { s with stage := .commit }) → i.dst = none → i.ctl = true →
      ∃ t, runStage .commit i s = .next t ∧ CommitEffect i e s t := by
    intro h hd hc
    cases ht : e.taken with
    | true =>
      refine ⟨_, ?_, .reset hd hc⟩
      rw [h, commitBranch, hh]; simp only [ht, if_true]
      cases s; simp only at hs; subst hs; rfl
    | false =>
      refine ⟨_, ?_, .plain hd⟩
      rw [h, commitBranch, hh]; simp only [ht, Bool.false_eq_true, if_false]
      cases s; simp only at hs; subst hs; rfl
  cases i
  case store => exact hst rfl rfl rfl
  case str => exact hst rfl rfl rfl
  case bz => exact hb rfl rfl rfl
  case bnz => exact hb rfl rfl rfl
  case jump =>
    refine ⟨_, ?_, .reset rfl rfl⟩
    show settle (commitJump { s with stage := .commit }) = _
    rw [commitJump, hh]; cases s; simp only at hs; subst hs; rfl
  case jal rd _ _ =>
    refine ⟨_, ?_, .jal rd rfl rfl⟩
    show settle (commitJal rd { s with stage := .commit }) = _
    rw [commitJal, hh]
    cases e with | mk a b c d f pd => cases s; simp only at hs; subst hs; cases pd <;> rfl
  case nop =>
    refine ⟨_, ?_, .plain rfl⟩
    show settle (commitNop { s with stage := .commit }) = _
    rw [commitNop, hh]; cases s; simp only at hs; subst hs; rfl
  case halt =>
    refine ⟨_, ?_, .halt rfl⟩
    show settle (commitHalt { s with stage := .commit }) = _
    rw [commitHalt, hh]; cases s; simp only at hs; subst hs; rfl
  all_goals exact hp _ rfl rfl

/-! ### Words: what the stages compute has XLEN bits (R11) -/

theorem wrap_isWord (w : Nat) (n : Int) : isWord w (wrap w n) := by
  have h := Int.emod_lt_of_pos n (b := ((2 ^ w : Nat) : Int)) (by positivity)
  have h0 := Int.emod_nonneg n (b := ((2 ^ w : Nat) : Int)) (by positivity)
  have : ((wrap w n : Nat) : Int) < ((2 ^ w : Nat) : Int) := by rw [wrap, Int.toNat_of_nonneg h0]; exact h
  exact_mod_cast this

theorem zero_isWord (w : Nat) : isWord w 0 := Nat.two_pow_pos w

theorem State.WordsOk.operand {s : State} (h : s.WordsOk) (o : Option Nat) : isWord s.xlen (s.operand o) := by
  cases o with
  | none => exact zero_isWord _
  | some p =>
    show isWord s.xlen (s.physValue p)
    unfold State.physValue
    split
    · rename_i r hr; exact h.prf r (List.mem_of_getElem? hr)
    · exact zero_isWord _

theorem Mem.read_isWord {w : Nat} {m : List (Nat × Word)} (h : ∀ c ∈ m, isWord w c.2) (a : Nat) : isWord w (Mem.read m a) := by
  induction m with
  | nil => exact zero_isWord w
  | cons c m ih =>
    obtain ⟨b, v⟩ := c
    unfold Mem.read
    split
    · exact h (b, v) (by simp)
    · exact ih (fun d hd => h d (by simp [hd]))

/-- `v` is a word of XLEN bits, where the words of `s` are and the immediate of `i` is. -/
def State.WordFor (s : State) (i : Instr) (v : Word) : Prop := s.WordsOk → Instr.ImmOk s.xlen i → isWord s.xlen v

theorem State.WordFor.wrap (s : State) (i : Instr) (n : Int) : s.WordFor i (wrap s.xlen n) := fun _ _ => wrap_isWord _ _

theorem State.WordFor.zero (s : State) (i : Instr) : s.WordFor i 0 := fun _ _ => zero_isWord _

theorem State.WordFor.operand (s : State) (i : Instr) (o : Option Nat) : s.WordFor i (s.operand o) := fun h _ => h.operand o

/-- The integer stage answers a next state for an INT instruction, and refuses no other way than by its class. Z is written
only by the five flag setters, and the result is a word. -/
theorem runStage_int (i : Instr) (s : State) (u : IqEntry) (hs : s.stage = .dispatch) (hu : s.lInt = some u) :
    (i.cls = some .int ∧ ∃ r z, (writesZ i = false → z = s.z) ∧ s.WordFor i r ∧
      runStage .int i s =
        .next { s.robUpdate u.rob (fun e => e.finish r) with z := z, lInt := none }) ∨
    (i.cls ≠ some .int ∧ runStage .int i s = .refused .notAtThisStage) := by
  have hi : ∀ f b, runStage .int i s = settle (intStage f b { s with stage := .int }) → i.cls = some .int →
      writesZ i = b → s.WordFor i (f (s.operand u.ps1) (s.operand u.ps2)) → (i.cls = some .int ∧ ∃ r z, (writesZ i = false → z = s.z) ∧ s.WordFor i r ∧
      runStage .int i s =
        .next { s.robUpdate u.rob (fun e => e.finish r) with z := z, lInt := none }) := by
    intro f b h hc hz hr
    refine ⟨hc, f (s.operand u.ps1) (s.operand u.ps2), flagAfter b (f (s.operand u.ps1) (s.operand u.ps2)) s.z,
      fun hw => by rw [← hz, hw]; rfl, hr, ?_⟩
    have hu' : State.lInt { s with stage := .int } = some u := hu
    rw [h, intStage, hu']; cases s; simp only at hs; subst hs; rfl
  cases i
  case add => exact .inl (hi (fun a b => wordAdd s.xlen a b) true rfl rfl rfl (.wrap s _ _))
  case sub => exact .inl (hi (fun a b => wordSub s.xlen a b) true rfl rfl rfl (.wrap s _ _))
  case addl _ _ imm => exact .inl (hi (fun a _ => wordAdd s.xlen a imm) true rfl rfl rfl (.wrap s _ _))
  case subl _ _ imm => exact .inl (hi (fun a _ => wordSub s.xlen a imm) true rfl rfl rfl (.wrap s _ _))
  case and => exact .inl (hi wordAnd false rfl rfl rfl
    (fun h _ => Nat.and_lt_two_pow _ (h.operand _)))
  case or => exact .inl (hi wordOr false rfl rfl rfl (fun h _ => Nat.or_lt_two_pow (h.operand _) (h.operand _)))
  case xor => exact .inl (hi wordXor false rfl rfl rfl (fun h _ => Nat.xor_lt_two_pow (h.operand _) (h.operand _)))
  case cmp => exact .inl (hi (fun a b => wordSub s.xlen a b) true rfl rfl rfl (.wrap s _ _))
  case movc _ imm => exact .inl (hi (fun _ _ => imm) false rfl rfl rfl (fun _ h => h))
  all_goals exact .inr ⟨by simp [Instr.cls], rfl⟩

theorem runStage_mul1 (i : Instr) (s : State) (u : IqEntry) (hs : s.stage = .dispatch) (hu : s.lMul1 = some u) :
    (i.cls = some .mul ∧ ∃ p, s.WordFor i p ∧
      runStage .mul1 i s = .next { s with lMul2 := some ⟨u, p⟩, lMul1 := none }) ∨
    (i.cls ≠ some .mul ∧ runStage .mul1 i s = .refused .notAtThisStage) := by
  cases i
  case mul =>
    refine .inl ⟨rfl, wordMul s.xlen (s.operand u.ps1) (s.operand u.ps2), .wrap s _ _, ?_⟩
    show settle (mul1Stage _ { s with stage := .mul1 }) = _
    have hu' : State.lMul1 { s with stage := .mul1 } = some u := hu
    rw [mul1Stage, hu']; cases s; simp only at hs; subst hs; rfl
  all_goals exact .inr ⟨by simp [Instr.cls], rfl⟩

theorem runStage_mul3 (i : Instr) (s : State) (m : MulOp) (hs : s.stage = .dispatch) (hu : s.lMul3 = some m) :
    (i.cls = some .mul ∧ runStage .mul3 i s =
        .next { s.robUpdate m.entry.rob (fun e => e.finish m.prod) with lMul3 := none }) ∨
    (i.cls ≠ some .mul ∧ runStage .mul3 i s = .refused .notAtThisStage) := by
  cases i
  case mul =>
    refine .inl ⟨rfl, ?_⟩
    show settle (mul3Stage { s with stage := .mul3 }) = _
    have hu' : State.lMul3 { s with stage := .mul3 } = some m := hu
    rw [mul3Stage, hu']; cases s; simp only at hs; subst hs; rfl
  all_goals exact .inr ⟨by simp [Instr.cls], rfl⟩

theorem runStage_bru1 (i : Instr) (s : State) (u : IqEntry) (hs : s.stage = .dispatch) (hu : s.lBru1 = some u) :
    (i.cls = some .branch ∧ ∃ t l, s.WordFor i t ∧ s.WordFor i l ∧
      runStage .bru1 i s = .next { s with lBru2 := some ⟨u, t, l⟩, lBru1 := none }) ∨
    (i.cls ≠ some .branch ∧ runStage .bru1 i s = .refused .notAtThisStage) := by
  have hu' : State.lBru1 { s with stage := .bru1 } = some u := hu
  have hb : ∀ f, runStage .bru1 i s = settle (bru1Stage f { s with stage := .bru1 }) → i.cls = some .branch →
      s.WordFor i (f (s.operand u.ps1) (s.insnPc u)).1 → s.WordFor i (f (s.operand u.ps1) (s.insnPc u)).2 →
      (i.cls = some .branch ∧ ∃ t l, s.WordFor i t ∧ s.WordFor i l ∧
      runStage .bru1 i s = .next { s with lBru2 := some ⟨u, t, l⟩, lBru1 := none }) := by
    intro f h hc h1 h2
    refine ⟨hc, (f (s.operand u.ps1) (s.insnPc u)).1, (f (s.operand u.ps1) (s.insnPc u)).2, h1, h2, ?_⟩
    rw [h, bru1Stage, hu']; cases s; simp only at hs; subst hs; rfl
  cases i
  case jump _ imm => exact .inl (hb (fun a _ => (wordAdd s.xlen a imm, 0)) rfl rfl (.wrap s _ _) (.zero s _))
  case jal _ _ imm => exact .inl (hb (fun a pc => (wordAdd s.xlen a imm, s.nextPc pc)) rfl rfl (.wrap s _ _)
    (show s.WordFor _ (s.nextPc _) from .wrap s _ _))
  case bz imm => exact .inl (hb (fun _ pc => (wordAdd s.xlen pc imm, 0)) rfl rfl (.wrap s _ _) (.zero s _))
  case bnz imm => exact .inl (hb (fun _ pc => (wordAdd s.xlen pc imm, 0)) rfl rfl (.wrap s _ _) (.zero s _))
  all_goals exact .inr ⟨by simp [Instr.cls], rfl⟩

/-- The state BRU2 leaves for the outcome `taken` (R201 to R203). -/
def resolved (s : State) (b : BruOp) (taken : Bool) : State :=
  let t : State := { s.robUpdate b.entry.rob (fun e => e.resolve b taken) with lBru2 := none }
  if taken then (t.squash b.target).releaseFetch else t.releaseFetch

theorem runStage_bru2 (i : Instr) (s : State) (b : BruOp) (hs : s.stage = .dispatch) (hu : s.lBru2 = some b) :
    (i.cls = some .branch ∧ ∃ taken, runStage .bru2 i s = .next (resolved s b taken)) ∨
    (i.cls ≠ some .branch ∧ runStage .bru2 i s = .refused .notAtThisStage) := by
  have hu' : State.lBru2 { s with stage := .bru2 } = some b := hu
  have hb : ∀ tk, runStage .bru2 i s = settle (bru2Stage tk { s with stage := .bru2 }) → i.cls = some .branch →
      (i.cls = some .branch ∧ ∃ taken, runStage .bru2 i s = .next (resolved s b taken)) := by
    intro tk h hc
    refine ⟨hc, tk, ?_⟩
    rw [h, bru2Stage, hu']; cases s; simp only at hs; subst hs; cases tk <;> rfl
  cases i
  case jump => exact .inl (hb true rfl rfl)
  case jal => exact .inl (hb true rfl rfl)
  case bz => exact .inl (hb s.z rfl rfl)
  case bnz => exact .inl (hb (!s.z) rfl rfl)
  all_goals exact .inr ⟨by simp [Instr.cls], rfl⟩

theorem runStage_mem1 (i : Instr) (s : State) (u : IqEntry) (hs : s.stage = .dispatch) (hu : s.lMem1 = some u) :
    (i.cls = some .mem ∧ ∃ ea data, s.WordFor i ea ∧ s.WordFor i data ∧
        runStage .mem1 i s = .next ({ s with lMem1 := none }.intoMem2 ⟨u, ea, data⟩)) ∨
    (i.cls ≠ some .mem ∧ runStage .mem1 i s = .refused .notAtThisStage) := by
  have hu' : State.lMem1 { s with stage := .mem1 } = some u := hu
  have hb : ∀ f g, runStage .mem1 i s = settle (mem1Stage f g { s with stage := .mem1 }) → i.cls = some .mem →
      s.WordFor i (f (s.operand u.ps1) (s.operand u.ps2) (s.operand u.ps3)) →
      s.WordFor i (g (s.operand u.ps1) (s.operand u.ps2) (s.operand u.ps3)) →
      (i.cls = some .mem ∧ ∃ ea data, s.WordFor i ea ∧ s.WordFor i data ∧
        runStage .mem1 i s = .next ({ s with lMem1 := none }.intoMem2 ⟨u, ea, data⟩)) := by
    intro f g h hc h1 h2
    refine ⟨hc, f (s.operand u.ps1) (s.operand u.ps2) (s.operand u.ps3),
      g (s.operand u.ps1) (s.operand u.ps2) (s.operand u.ps3), h1, h2, ?_⟩
    rw [h, mem1Stage, hu']
    cases s with
    | mk prf srat rrat pc z bp rd ha hr fa lf ld iq rob he ta co im li m1 m2 m3 b1 b2 me mp la dm xl ib bs ds st =>
      simp only at hs; subst hs; cases mp <;> rfl
  cases i
  case load _ _ imm => exact .inl (hb (fun a _ _ => wordAdd s.xlen a imm) (fun _ _ _ => 0) rfl rfl (.wrap s _ _) (.zero s _))
  case store _ _ imm => exact .inl (hb (fun _ b _ => wordAdd s.xlen b imm) (fun a _ _ => a) rfl rfl (.wrap s _ _) (.operand s _ _))
  case ldr => exact .inl (hb (fun a b _ => wordAdd s.xlen a b) (fun _ _ _ => 0) rfl rfl (.wrap s _ _) (.zero s _))
  case str => exact .inl (hb (fun _ b c => wordAdd s.xlen b c) (fun a _ _ => a) rfl rfl (.wrap s _ _) (.operand s _ _))
  all_goals exact .inr ⟨by simp [Instr.cls], rfl⟩

theorem accessLoad_in (s : State) (m : MemOp) (hu : s.lAcc = some m) (hr : s.inRange m.ea = true) :
    accessLoad s = .next { s.robUpdate m.entry.rob (fun e => e.finish (s.memRead m.ea)) with lAcc := none } := by
  simp [accessLoad, hu, hr]

theorem accessLoad_out (s : State) (m : MemOp) (hu : s.lAcc = some m) (hr : s.inRange m.ea = false) :
    accessLoad s = .next (s.raiseFault (.dmemRange m.ea)) := by
  simp [accessLoad, hu, hr]

/-- What the access stage does: a load's result or a store's staging goes into the ROB entry, or the range fault is recorded. -/
theorem runStage_access (i : Instr) (s : State) (m : MemOp) (hs : s.stage = .dispatch) (hu : s.lAcc = some m) :
    (i.cls = some .mem ∧
      ((∃ r, s.WordFor i r ∧ runStage .access i s =
        .next { s.robUpdate m.entry.rob (fun e => e.finish r) with lAcc := none }) ∨
       runStage .access i s = .next { s.robUpdate m.entry.rob (fun e => e.stageStore m) with lAcc := none } ∨
       runStage .access i s = .next (s.raiseFault (.dmemRange m.ea)))) ∨
    (i.cls ≠ some .mem ∧ runStage .access i s = .refused .notAtThisStage) := by
  have hu' : State.lAcc { s with stage := .access } = some m := hu
  have hl : runStage .access i s = settle (accessLoad { s with stage := .access }) →
      (∃ r, s.WordFor i r ∧ runStage .access i s =
        .next { s.robUpdate m.entry.rob (fun e => e.finish r) with lAcc := none }) ∨
       runStage .access i s = .next { s.robUpdate m.entry.rob (fun e => e.stageStore m) with lAcc := none } ∨
       runStage .access i s = .next (s.raiseFault (.dmemRange m.ea)) := by
    intro h
    rw [h]
    by_cases hr : State.inRange { s with stage := .access } m.ea = true
    · refine .inl ⟨s.memRead m.ea, fun h _ => Mem.read_isWord h.dmem _, ?_⟩
      rw [accessLoad_in _ _ hu' hr]; cases s; simp only at hs; subst hs; rfl
    · refine .inr (.inr ?_)
      rw [accessLoad_out _ _ hu' (by simpa using hr)]; cases s; simp only at hs; subst hs; rfl
  have hst : runStage .access i s = settle (accessStore { s with stage := .access }) →
      (∃ r, s.WordFor i r ∧ runStage .access i s =
        .next { s.robUpdate m.entry.rob (fun e => e.finish r) with lAcc := none }) ∨
       runStage .access i s = .next { s.robUpdate m.entry.rob (fun e => e.stageStore m) with lAcc := none } ∨
       runStage .access i s = .next (s.raiseFault (.dmemRange m.ea)) := by
    intro h
    rw [h, accessStore, hu']
    refine .inr (.inl ?_)
    cases s; simp only at hs; subst hs; rfl
  cases i
  case load => exact .inl ⟨rfl, hl rfl⟩
  case ldr => exact .inl ⟨rfl, hl rfl⟩
  case store => exact .inl ⟨rfl, hst rfl⟩
  case str => exact .inl ⟨rfl, hst rfl⟩
  all_goals exact .inr ⟨by simp [Instr.cls], rfl⟩

end Sys2Proof.Machine
end

