-- ==== Sys2Proof/Laws/Stages.lean ====
section
/-! SUPPORT. The induction over a cycle, packaged once: a property that every stage keeps is kept by the step. -/

namespace Sys2Proof.Machine

/-- The start of the cycle and every commit keep `P`. -/
structure CommitKeeps (P : State → Prop) : Prop where
  start : ∀ s, P s → P (startCycle s)
  commit : ∀ s e t, P s → s.headEntry = some e → e.resultValid = true → CommitEffect e.insn e s t → P t

/-- The stages after resolution and before issue keep `P`: the target, multiply and integer stages. -/
structure ComputeKeeps (P : State → Prop) : Prop where
  target : ∀ s u a l, P s → s.lBru1 = some u → u.insn.cls = some .branch →
    s.WordFor u.insn a → s.WordFor u.insn l → P { s with lBru2 := some ⟨u, a, l⟩, lBru1 := none }
  mulWrite : ∀ s m, P s → s.lMul3 = some m → P { s.robUpdate m.entry.rob (fun e => e.finish m.prod) with lMul3 := none }
  mulPass : ∀ s, P s → P (mulPassStage s)
  mulStart : ∀ s u p, P s → s.lMul1 = some u → u.insn.cls = some .mul → s.WordFor u.insn p →
    P { s with lMul2 := some ⟨u, p⟩, lMul1 := none }
  int : ∀ s u r z, P s → s.lInt = some u → (writesZ u.insn = false → z = s.z) → s.WordFor u.insn r →
    P { s.robUpdate u.rob (fun e => e.finish r) with z := z, lInt := none }

/-- Every functional-unit stage keeps `P`: one clause per thing a stage can do. -/
structure UnitsKeep (P : State → Prop) : Prop extends ComputeKeeps P where
  fault : ∀ s f, P s → P (s.raiseFault f)
  load : ∀ s m r, P s → s.lAcc = some m → s.WordFor m.entry.insn r →
    P { s.robUpdate m.entry.rob (fun e => e.finish r) with lAcc := none }
  store : ∀ s m, P s → s.lAcc = some m → P { s.robUpdate m.entry.rob (fun e => e.stageStore m) with lAcc := none }
  pass : ∀ s, P s → P (passStage s)
  agen : ∀ s u ea data, P s → s.lMem1 = some u → u.insn.cls = some .mem →
    s.WordFor u.insn ea → s.WordFor u.insn data → P ({ s with lMem1 := none }.intoMem2 ⟨u, ea, data⟩)
  resolve : ∀ s b taken, P s → s.lBru2 = some b → P (resolved s b taken)

/-- Issue, dispatch and fetch keep `P`. -/
structure FrontKeeps (P : State → Prop) : Prop where
  fault : ∀ s f, P s → P (s.raiseFault f)
  issue : ∀ s, P s → P (issueStage s)
  dispatch : ∀ s d ps, P s → s.ld = some d → renameSources s.srat d.insn.srcs = .ok ps → s.stalls d.insn ps = false →
    P (s.allocate d.pc d.insn ps)
  fetch : ∀ s, P s → P (fetchStage s)

/-- What has to be shown of a property for the step to keep it. -/
structure Preserved (P : State → Prop) : Prop extends CommitKeeps P, UnitsKeep P, FrontKeeps P where
  finish : ∀ s, P s → P (endCycle s)

theorem CommitEffect.stage_eq {i : Instr} {e : RobEntry} {s t : State} (h : CommitEffect i e s t) : t.stage = s.stage := by
  cases h <;> try rfl
  all_goals (cases e with | mk a b c d f pd => cases pd <;> rfl)

theorem issueFrom_stage (s : State) (c : FuClass) (k : Option Nat) : (s.issueFrom c k).stage = s.stage := by
  unfold State.issueFrom
  split
  · rfl
  · split
    · rfl
    · cases c <;> rfl

theorem issueStage_stage (s : State) : (issueStage s).stage = s.stage := by
  simp [issueStage, issueFrom_stage]

theorem passStage_stage (s : State) : (passStage s).stage = s.stage := by
  unfold passStage; split <;> rfl

theorem advanceFront_stage (s : State) : s.advanceFront.stage = s.stage := by
  unfold State.advanceFront; split <;> rfl

theorem fetchStage_stage (s : State) : (fetchStage s).stage = s.stage := by
  unfold fetchStage
  split
  · rfl
  · split
    · exact advanceFront_stage s
    · split
      · rfl
      · exact advanceFront_stage _

theorem fetchStage_fault (s : State) : (fetchStage s).fault = s.fault := by
  unfold fetchStage State.advanceFront
  repeat' split
  all_goals rfl

theorem endCycle_stage (s : State) : (endCycle s).stage = s.stage := by
  unfold endCycle; split <;> rfl

theorem intoMem2_stage (s : State) (m : MemOp) : (s.intoMem2 m).stage = s.stage := by
  unfold State.intoMem2; split <;> rfl

theorem resolved_stage (s : State) (b : BruOp) (k : Bool) : (resolved s b k).stage = s.stage := by
  cases k <;> rfl

theorem allocate_stage (s : State) (pc : Word) (i : Instr) (ps : List Nat) : (s.allocate pc i ps).stage = s.stage := by
  simp only [State.allocate, State.claimDest, State.enqueue, State.push_stage]
  repeat' split
  all_goals simp

theorem andThen_next {o : Result} {f : State → Result} {t : State} (h : andThen o f = .next t) :
    (o = .next t ∧ t.fault.isSome = true) ∨ (∃ s, o = .next s ∧ s.fault = none ∧ f s = .next t) := by
  cases o with
  | next s =>
    simp only [andThen] at h
    split at h
    · rename_i hf
      injection h with h
      subst h
      exact .inl ⟨rfl, hf⟩
    · rename_i hf
      exact .inr ⟨s, rfl, by simpa using hf, h⟩
  | fault r => simp [andThen] at h
  | refused r => simp [andThen] at h

/-- A stage that keeps a property, after stages that keep it. -/
theorem andThen_keeps {P : State → Prop} {o : Result} {f : State → Result} {t : State}
    (ho : ∀ s, o = .next s → P s) (hf : ∀ s u, P s → f s = .next u → P u) (h : andThen o f = .next t) : P t := by
  rcases andThen_next h with ⟨h, _⟩ | ⟨s, h1, _, h2⟩
  · exact ho t h
  · exact hf s t (ho s h1) h2

/-- The commit loop keeps what every commit keeps. -/
theorem commitLoop_keeps {P : State → Prop} (hP : ∀ s e t, P s → s.headEntry = some e → e.resultValid = true →
    CommitEffect e.insn e s t → P t) (n : Nat) : ∀ s t, P s → s.stage = .dispatch → commitLoop n s = .next t →
    P t ∧ t.stage = .dispatch := by
  induction n with
  | zero => intro s t hs hst h; injection h with h; subst h; exact ⟨hs, hst⟩
  | succ n ih =>
    intro s t hs hst h
    unfold Machine.commitLoop at h
    cases he : s.headEntry with
    | none => rw [he] at h; injection h with h; subst h; exact ⟨hs, hst⟩
    | some e =>
      rw [he] at h
      cases hv : e.resultValid with
      | false => simp only [hv] at h; injection h with h; subst h; exact ⟨hs, hst⟩
      | true =>
        obtain ⟨u, hu, hc⟩ := runStage_commit e.insn s e hst he
        simp only [hv, if_true, hu] at h
        have hPu := hP s e u hs he hv hc
        have hsu : u.stage = .dispatch := hc.stage_eq.trans hst
        split at h
        · injection h with h; subst h; exact ⟨hPu, hsu⟩
        · exact ih u t hPu hsu h

section
variable {P : State → Prop} (hP : CommitKeeps P)
include hP

/-- The start of the cycle and the commit stage. -/
theorem CommitKeeps.commitStage (s t : State) (hs : P s) (hst : s.stage = .dispatch)
    (h : commitStage (startCycle s) = .next t) : P t ∧ t.stage = .dispatch :=
  commitLoop_keeps hP.commit _ _ t (hP.start s hs) hst h

end

section
variable {P : State → Prop} (hP : ComputeKeeps P)
include hP

theorem ComputeKeeps.targetStage (s t : State) (hs : P s) (hst : s.stage = .dispatch) (h : targetStage s = .next t) :
    P t ∧ t.stage = .dispatch := by
  unfold Machine.targetStage at h
  cases hl : s.lBru1 with
  | none => rw [hl] at h; injection h with h; subst h; exact ⟨hs, hst⟩
  | some u =>
    simp only [hl] at h
    rcases runStage_bru1 u.insn s u hst hl with ⟨hc, a, l, ha, hl', h1⟩ | ⟨_, h1⟩
    · rw [h1] at h; injection h with h; subst h; exact ⟨hP.target s u a l hs hl hc ha hl', hst⟩
    · rw [h1] at h; cases h

theorem ComputeKeeps.mulWriteStage (s t : State) (hs : P s) (hst : s.stage = .dispatch) (h : mulWriteStage s = .next t) :
    P t ∧ t.stage = .dispatch := by
  unfold Machine.mulWriteStage at h
  cases hl : s.lMul3 with
  | none => rw [hl] at h; injection h with h; subst h; exact ⟨hs, hst⟩
  | some m =>
    simp only [hl] at h
    rcases runStage_mul3 m.entry.insn s m hst hl with ⟨_, h1⟩ | ⟨_, h1⟩
    · rw [h1] at h; injection h with h; subst h; exact ⟨hP.mulWrite s m hs hl, hst⟩
    · rw [h1] at h; cases h

theorem ComputeKeeps.mulStartStage (s t : State) (hs : P s) (hst : s.stage = .dispatch) (h : mulStartStage s = .next t) :
    P t ∧ t.stage = .dispatch := by
  unfold Machine.mulStartStage at h
  cases hl : s.lMul1 with
  | none => rw [hl] at h; injection h with h; subst h; exact ⟨hs, hst⟩
  | some u =>
    simp only [hl] at h
    rcases runStage_mul1 u.insn s u hst hl with ⟨hc, p, hp, h1⟩ | ⟨_, h1⟩
    · rw [h1] at h; injection h with h; subst h; exact ⟨hP.mulStart s u p hs hl hc hp, hst⟩
    · rw [h1] at h; cases h

theorem ComputeKeeps.integerStage (s t : State) (hs : P s) (hst : s.stage = .dispatch) (h : integerStage s = .next t) :
    P t ∧ t.stage = .dispatch := by
  unfold Machine.integerStage at h
  cases hl : s.lInt with
  | none => rw [hl] at h; injection h with h; subst h; exact ⟨hs, hst⟩
  | some u =>
    simp only [hl] at h
    rcases runStage_int u.insn s u hst hl with ⟨_, r, z, hz, hr, h1⟩ | ⟨_, h1⟩
    · rw [h1] at h; injection h with h; subst h; exact ⟨hP.int s u r z hs hl hz hr, hst⟩
    · rw [h1] at h; cases h

/-- The stages after resolution. -/
theorem ComputeKeeps.afterResolve {o : Result} (t : State) (ho : ∀ s, o = .next s → P s ∧ s.stage = .dispatch)
    (h : andThen (andThen (andThen (andThen o Machine.targetStage) Machine.mulWriteStage)
      (fun s => Machine.mulStartStage (mulPassStage s))) Machine.integerStage = .next t) : P t ∧ t.stage = .dispatch := by
  refine andThen_keeps (P := fun s => P s ∧ s.stage = .dispatch) (fun b hb => ?_)
    (fun b v hb hv => hP.integerStage b v hb.1 hb.2 hv) h
  refine andThen_keeps (P := fun s => P s ∧ s.stage = .dispatch) (fun b hb => ?_)
    (fun b v hb hv => hP.mulStartStage _ v (hP.mulPass b hb.1) hb.2 hv) hb
  refine andThen_keeps (P := fun s => P s ∧ s.stage = .dispatch) (fun b hb => ?_)
    (fun b v hb hv => hP.mulWriteStage b v hb.1 hb.2 hv) hb
  exact andThen_keeps (P := fun s => P s ∧ s.stage = .dispatch) ho
    (fun b v hb hv => hP.targetStage b v hb.1 hb.2 hv) hb

end

section
variable {P : State → Prop} (hP : UnitsKeep P)
include hP

theorem UnitsKeep.accessStage (s t : State) (hs : P s) (hst : s.stage = .dispatch) (h : accessStage s = .next t) :
    P t ∧ t.stage = .dispatch := by
  unfold Machine.accessStage at h
  cases hl : s.lAcc with
  | none => rw [hl] at h; injection h with h; subst h; exact ⟨hs, hst⟩
  | some m =>
    simp only [hl] at h
    rcases runStage_access m.entry.insn s m hst hl with ⟨_, ⟨r, hr, h1⟩ | h1 | h1⟩ | ⟨_, h1⟩
    · rw [h1] at h; injection h with h; subst h; exact ⟨hP.load s m r hs hl hr, hst⟩
    · rw [h1] at h; injection h with h; subst h; exact ⟨hP.store s m hs hl, hst⟩
    · rw [h1] at h; injection h with h; subst h; exact ⟨hP.fault s _ hs, hst⟩
    · rw [h1] at h; cases h

theorem UnitsKeep.agenStage (s t : State) (hs : P s) (hst : s.stage = .dispatch) (h : agenStage s = .next t) :
    P t ∧ t.stage = .dispatch := by
  unfold Machine.agenStage at h
  cases hl : s.lMem1 with
  | none => rw [hl] at h; injection h with h; subst h; exact ⟨hs, hst⟩
  | some u =>
    simp only [hl] at h
    rcases runStage_mem1 u.insn s u hst hl with ⟨hc, ea, data, he, hd, h1⟩ | ⟨_, h1⟩
    · rw [h1] at h; injection h with h; subst h
      exact ⟨hP.agen s u ea data hs hl hc he hd, (intoMem2_stage _ _).trans hst⟩
    · rw [h1] at h; cases h

theorem UnitsKeep.resolveStage (s t : State) (hs : P s) (hst : s.stage = .dispatch) (h : resolveStage s = .next t) :
    P t ∧ t.stage = .dispatch := by
  unfold Machine.resolveStage at h
  cases hl : s.lBru2 with
  | none => rw [hl] at h; injection h with h; subst h; exact ⟨hs, hst⟩
  | some b =>
    simp only [hl] at h
    rcases runStage_bru2 b.entry.insn s b hst hl with ⟨_, k, h1⟩ | ⟨_, h1⟩
    · rw [h1] at h; injection h with h; subst h; exact ⟨hP.resolve s b k hs hl, (resolved_stage _ _ _).trans hst⟩
    · rw [h1] at h; cases h

/-- The memory stages. -/
theorem UnitsKeep.memoryStages (s t : State) (hs : P s) (hst : s.stage = .dispatch) (h : memoryStages s = .next t) :
    P t ∧ t.stage = .dispatch := by
  refine andThen_keeps (P := fun s => P s ∧ s.stage = .dispatch) (fun a ha => hP.accessStage s a hs hst ha)
    (fun a u ha hu => ?_) h
  exact hP.agenStage _ u (hP.pass a ha.1) ((passStage_stage a).trans ha.2) hu

/-- The branch, multiply and integer stages. -/
theorem UnitsKeep.executeStages (s t : State) (hs : P s) (hst : s.stage = .dispatch) (h : executeStages s = .next t) :
    P t ∧ t.stage = .dispatch :=
  hP.toComputeKeeps.afterResolve t (fun b hb => hP.resolveStage s b hs hst hb) h

/-- All the functional units. -/
theorem UnitsKeep.unitStages (s t : State) (hs : P s) (hst : s.stage = .dispatch) (h : unitStages s = .next t) :
    P t ∧ t.stage = .dispatch :=
  andThen_keeps (P := fun s => P s ∧ s.stage = .dispatch) (fun b hb => hP.memoryStages s b hs hst hb)
    (fun b v hb hv => hP.executeStages b v hb.1 hb.2 hv) h

end

section
variable {P : State → Prop} (hP : FrontKeeps P)
include hP

theorem FrontKeeps.dispatchStage (s t : State) (hs : P s) (hst : s.stage = .dispatch) (h : dispatchStage s = .next t) :
    P t ∧ t.stage = .dispatch := by
  unfold Machine.dispatchStage at h
  cases hl : s.ld with
  | none => rw [hl] at h; injection h with h; subst h; exact ⟨hs, hst⟩
  | some d =>
    simp only [hl] at h
    rcases runStage_dispatch s d hst hl with ⟨r, h1⟩ | h1 | ⟨ps, hps, hstall, h1⟩
    · rw [h1] at h; injection h with h; subst h; exact ⟨hP.fault s _ hs, hst⟩
    · rw [h1] at h; injection h with h; subst h; exact ⟨hs, hst⟩
    · rw [h1] at h; injection h with h; subst h
      exact ⟨hP.dispatch s d ps hs hl hps hstall, (allocate_stage _ _ _ _).trans hst⟩

/-- Issue and dispatch. -/
theorem FrontKeeps.issueAndDispatch (s t : State) (hs : P s) (hst : s.stage = .dispatch)
    (h : issueAndDispatch s = .next t) : P t ∧ t.stage = .dispatch :=
  hP.dispatchStage _ t (hP.issue s hs) ((issueStage_stage s).trans hst) h

/-- Issue, dispatch, fetch and the end of the cycle: after a fault in dispatch `P` holds, and otherwise what the end of the
cycle makes of `P` without a fault. -/
theorem FrontKeeps.frontStages {Q : State → Prop} (s t : State) (hs : P s) (hst : s.stage = .dispatch)
    (hf : ∀ s, P s → s.fault.isSome = true → Q s) (hq : ∀ s, P s → s.fault = none → Q (endCycle s)) (h : frontStages s = .next t) :
    Q t ∧ t.stage = .dispatch := by
  rcases andThen_next h with ⟨h1, h2⟩ | ⟨a, h1, hfa, h2⟩
  · have := hP.issueAndDispatch s t hs hst h1
    exact ⟨hf t this.1 h2, this.2⟩
  · have := hP.issueAndDispatch s a hs hst h1
    injection h2 with h2
    subst h2
    exact ⟨hq _ (hP.fetch a this.1) ((fetchStage_fault a).trans hfa), (endCycle_stage _).trans ((fetchStage_stage a).trans this.2)⟩

end

/-- Everything before issue. -/
theorem beforeIssue_keeps {P : State → Prop} (hc : CommitKeeps P) (hu : UnitsKeep P) (s t : State) (hs : P s)
    (hst : s.stage = .dispatch) (h : beforeIssue s = .next t) : P t ∧ t.stage = .dispatch :=
  andThen_keeps (P := fun s => P s ∧ s.stage = .dispatch) (fun b hb => hc.commitStage s b hs hst hb)
    (fun b v hb hv => hu.unitStages b v hb.1 hb.2 hv) h

/-- A step that answers a next state is a cycle of a machine that is neither halted nor faulted. -/
theorem step_next {s t : State} (h : step s = .next t) : s.fault = none ∧ s.halted = false ∧ cycle s = .next t := by
  unfold step stepCycle at h
  cases hf : s.fault with
  | some f => rw [State.status_faulted hf] at h; cases h
  | none =>
    cases hh : s.halted with
    | true => rw [State.status_halted hf hh] at h; cases h
    | false => rw [State.status_running hf hh] at h; exact ⟨rfl, rfl, h⟩

theorem step_eq_cycle {s : State} (hf : s.fault = none) (hh : s.halted = false) : step s = cycle s := by
  simp [step, stepCycle, State.status_running hf hh]

/-- The step keeps what every stage keeps, and leaves the stage field as it is at a cycle boundary. -/
theorem Preserved.step {P : State → Prop} (hP : Preserved P) (s t : State) (hs : P s) (hst : s.stage = .dispatch)
    (h : step s = .next t) : P t ∧ t.stage = .dispatch := by
  have h := (step_next h).2.2
  rcases andThen_next h with ⟨h1, _⟩ | ⟨a, h1, _, h2⟩
  · exact beforeIssue_keeps hP.toCommitKeeps hP.toUnitsKeep s t hs hst h1
  · have ha := beforeIssue_keeps hP.toCommitKeeps hP.toUnitsKeep s a hs hst h1
    exact hP.toFrontKeeps.frontStages a t ha.1 ha.2 (fun s h _ => h) (fun s h _ => hP.finish s h) h2

end Sys2Proof.Machine
end

