-- ==== Sys2Proof/Laws/Issue.lean ====
section
/-! SUPPORT. The issue stage: what a selection says, and what taking it does to the queue, the latches and the ROB. -/

namespace Sys2Proof.Machine

/-- A source is ready iff it is not used or its slot has a result. -/
theorem State.sourceReady_iff (s : State) (q : Option Nat) :
    s.sourceReady q = true ↔ ∀ p, q = some p → ∃ r, s.prf[p]? = some r ∧ r.hasResult = true := by
  cases q with
  | none => simp [State.sourceReady]
  | some p =>
    simp only [State.sourceReady, State.physHasResult, Option.some.injEq, forall_eq']
    cases h : s.prf[p]? <;> simp

/-- The selection of a class is the lowest slot that holds a ready micro-op of the class. -/
theorem State.select_eq_some (s : State) (c : FuClass) (k : Nat) : s.select c = some k ↔
    (∃ u, s.iq[k]? = some (some u) ∧ u.insn.cls = some c ∧ s.ready u = true) ∧
    (∀ j u, j < k → s.iq[j]? = some (some u) → u.insn.cls = some c → s.ready u = false) ∧ k < s.iq.length := by
  simp only [State.select, List.findIdx?_eq_some_iff_getElem]
  constructor
  · rintro ⟨h, h1, h2⟩
    refine ⟨?_, fun j u hj hu hc => ?_, h⟩
    · split at h1
      · rename_i u hu
        exact ⟨u, by rw [List.getElem?_eq_getElem h, hu], by simpa [IqEntry.cls] using h1⟩
      · simp at h1
    · obtain ⟨hj', h3⟩ := List.getElem?_eq_some_iff.1 hu
      simpa [h3, IqEntry.cls, hc] using h2 j hj
  · rintro ⟨⟨u, h1, h2, h3⟩, h4, h5⟩
    refine ⟨h5, ?_, fun j hj => ?_⟩
    · obtain ⟨_, h6⟩ := List.getElem?_eq_some_iff.1 h1
      simp [h6, IqEntry.cls, h2, h3]
    · split
      · rename_i u' hu'
        have := h4 j u' hj (by rw [List.getElem?_eq_getElem (by omega), hu'])
        simp only [IqEntry.cls, Bool.not_eq_true, Bool.and_eq_false_iff, beq_eq_false_iff_ne]
        by_cases hc : u'.insn.cls = some c
        · exact .inr (this hc)
        · exact .inl hc
      · simp

/-- The queue without the micro-op of a selected slot. -/
def takeSlot (iq : List (Option IqEntry)) : Option Nat → List (Option IqEntry)
  | some k => iq.set k none
  | none => iq

theorem takeSlot_other (iq : List (Option IqEntry)) (o : Option Nat) (j : Nat) (h : o ≠ some j) :
    (takeSlot iq o)[j]? = iq[j]? := by
  cases o with
  | none => rfl
  | some k => exact List.getElem?_set_ne (fun e => h (by rw [e]))

/-- Taking a selection frees its slot and no other. -/
theorem issueFrom_iq (s : State) (c : FuClass) (o : Option Nat) : (s.issueFrom c o).iq = takeSlot s.iq o := by
  cases o with
  | none => rfl
  | some k =>
    simp only [State.issueFrom, takeSlot]
    cases h : s.iq[k]?.join with
    | some u => cases c <;> rfl
    | none =>
      symm
      refine List.ext_getElem? fun j => ?_
      by_cases hj : k = j
      · subst hj
        rw [List.getElem?_set_self']
        cases h' : s.iq[k]? with
        | none => rfl
        | some x => rw [h'] at h; simp at h; simp [h]
      · exact List.getElem?_set_ne hj

/-- The micro-op a selection takes. -/
def State.taken (s : State) (o : Option Nat) : Option IqEntry := o.bind (fun k => s.iq[k]?.join)

theorem takeSlot_of_taken_none (s : State) (o : Option Nat) (h : s.taken o = none) : takeSlot s.iq o = s.iq := by
  rw [← issueFrom_iq s .int o]
  cases o with
  | none => rfl
  | some k =>
    simp only [State.taken, Option.bind_some] at h
    simp [State.issueFrom, h]

/-- Mark the ROB entry of an issued memory micro-op. -/
def State.markReady (s : State) : Option IqEntry → State
  | some u => s.robUpdate u.rob (fun e => { e with memReady := true })
  | none => s

/-- What taking a selection does: the slot, and the first latch of the unit. -/
theorem issueFrom_int (s : State) (o : Option Nat) :
    s.issueFrom .int o = { s with iq := takeSlot s.iq o, lInt := (s.taken o).or s.lInt } := by
  cases h : s.taken o with
  | none =>
    rw [takeSlot_of_taken_none s o h]
    cases o with
    | none => rfl
    | some k => simp only [State.taken, Option.bind_some] at h; simp [State.issueFrom, h]
  | some u =>
    cases o with
    | none => simp [State.taken] at h
    | some k => simp only [State.taken, Option.bind_some] at h; simp [State.issueFrom, h, State.place, takeSlot]

theorem issueFrom_mul (s : State) (o : Option Nat) :
    s.issueFrom .mul o = { s with iq := takeSlot s.iq o, lMul1 := (s.taken o).or s.lMul1 } := by
  cases h : s.taken o with
  | none =>
    rw [takeSlot_of_taken_none s o h]
    cases o with
    | none => rfl
    | some k => simp only [State.taken, Option.bind_some] at h; simp [State.issueFrom, h]
  | some u =>
    cases o with
    | none => simp [State.taken] at h
    | some k => simp only [State.taken, Option.bind_some] at h; simp [State.issueFrom, h, State.place, takeSlot]

theorem issueFrom_branch (s : State) (o : Option Nat) :
    s.issueFrom .branch o = { s with iq := takeSlot s.iq o, lBru1 := (s.taken o).or s.lBru1 } := by
  cases h : s.taken o with
  | none =>
    rw [takeSlot_of_taken_none s o h]
    cases o with
    | none => rfl
    | some k => simp only [State.taken, Option.bind_some] at h; simp [State.issueFrom, h]
  | some u =>
    cases o with
    | none => simp [State.taken] at h
    | some k => simp only [State.taken, Option.bind_some] at h; simp [State.issueFrom, h, State.place, takeSlot]

/-- For MEM the ROB entry is marked as well. -/
theorem issueFrom_mem (s : State) (o : Option Nat) :
    s.issueFrom .mem o =
      { s.markReady (s.taken o) with iq := takeSlot s.iq o, lMem1 := (s.taken o).or s.lMem1 } := by
  cases h : s.taken o with
  | none =>
    rw [takeSlot_of_taken_none s o h]
    cases o with
    | none => rfl
    | some k => simp only [State.taken, Option.bind_some] at h; simp [State.issueFrom, h, State.markReady]
  | some u =>
    cases o with
    | none => simp [State.taken] at h
    | some k =>
      simp only [State.taken, Option.bind_some] at h
      simp [State.issueFrom, h, State.place, takeSlot, State.markReady, State.robUpdate]

/-- The selections of different classes are different slots, so each takes what the queue held before the issue stage. -/
theorem State.select_ne (s : State) {c c' : FuClass} (h : c ≠ c') {k : Nat} (h1 : s.select c = some k) :
    s.select c' ≠ some k := by
  intro h2
  obtain ⟨⟨u, a, b, _⟩, _⟩ := (s.select_eq_some c k).1 h1
  obtain ⟨⟨v, a', b', _⟩, _⟩ := (s.select_eq_some c' k).1 h2
  rw [a] at a'
  cases a'
  rw [b] at b'
  exact h (Option.some.inj b')

/-- The issue stage takes the four selections. -/
theorem issueStage_iq (s : State) : (issueStage s).iq = takeSlot (takeSlot (takeSlot (takeSlot s.iq (s.select .int))
    (s.select .mul)) (s.select .branch)) (s.select .mem) := by
  simp [issueStage, issueFrom_iq]

theorem State.taken_eq (s t : State) (o : Option Nat) (h : ∀ k, o = some k → t.iq[k]? = s.iq[k]?) :
    t.taken o = s.taken o := by
  cases o with
  | none => rfl
  | some k => simp [State.taken, h k rfl]

/-- The micro-op of class `c` the issue stage takes. -/
def State.issued (s : State) (c : FuClass) : Option IqEntry := s.taken (s.select c)

/-- The issue stage as one update: the queue, the four first latches, and the memory-ready mark. -/
theorem issueStage_eq (s : State) : issueStage s =
    { s.markReady (s.issued .mem) with
      iq := takeSlot (takeSlot (takeSlot (takeSlot s.iq (s.select .int)) (s.select .mul)) (s.select .branch)) (s.select .mem)
      lInt := (s.issued .int).or s.lInt
      lMul1 := (s.issued .mul).or s.lMul1
      lBru1 := (s.issued .branch).or s.lBru1
      lMem1 := (s.issued .mem).or s.lMem1 } := by
  have e1 : (s.issueFrom .int (s.select .int)).taken (s.select .mul) = s.issued .mul :=
    State.taken_eq _ _ _ fun k hk => by
      rw [issueFrom_iq, takeSlot_other _ _ _ (State.select_ne s (c := .mul) (by decide) hk)]
  have e2 : ((s.issueFrom .int (s.select .int)).issueFrom .mul (s.select .mul)).taken (s.select .branch) =
      s.issued .branch :=
    State.taken_eq _ _ _ fun k hk => by
      rw [issueFrom_iq, takeSlot_other _ _ _ (State.select_ne s (c := .branch) (by decide) hk), issueFrom_iq,
        takeSlot_other _ _ _ (State.select_ne s (c := .branch) (by decide) hk)]
  have e3 : (((s.issueFrom .int (s.select .int)).issueFrom .mul (s.select .mul)).issueFrom .branch
      (s.select .branch)).taken (s.select .mem) = s.issued .mem :=
    State.taken_eq _ _ _ fun k hk => by
      rw [issueFrom_iq, takeSlot_other _ _ _ (State.select_ne s (c := .mem) (by decide) hk), issueFrom_iq,
        takeSlot_other _ _ _ (State.select_ne s (c := .mem) (by decide) hk), issueFrom_iq,
        takeSlot_other _ _ _ (State.select_ne s (c := .mem) (by decide) hk)]
  unfold issueStage
  rw [issueFrom_mem, e3, issueFrom_branch, e2, issueFrom_mul, e1, issueFrom_int]
  cases s.issued .mem <;> rfl

/-- A micro-op that is issued was in the queue, with the class of the unit. -/
theorem State.issued_eq_some (s : State) (c : FuClass) (u : IqEntry) (h : s.issued c = some u) :
    ∃ k, s.select c = some k ∧ s.iq[k]? = some (some u) ∧ u.insn.cls = some c := by
  unfold State.issued State.taken at h
  cases hk : s.select c with
  | none => rw [hk] at h; simp at h
  | some k =>
    obtain ⟨⟨v, h1, h2, _⟩, _⟩ := (s.select_eq_some c k).1 hk
    rw [hk] at h
    simp [h1] at h
    subst h
    exact ⟨k, rfl, h1, h2⟩

theorem State.issued_of_select (s : State) (c : FuClass) (k : Nat) (u : IqEntry) (h : s.select c = some k)
    (hu : s.iq[k]? = some (some u)) : s.issued c = some u := by
  simp [State.issued, State.taken, h, hu]

theorem State.issued_none (s : State) (c : FuClass) (h : s.select c = none) : s.issued c = none := by
  simp [State.issued, State.taken, h]

end Sys2Proof.Machine
end

