-- ==== Sys2Proof/Laws/Memory.lean ====
section
/-! SUPPORT. The laws of the data memory: a read after a write to the same cell, to another cell, and the canonical form. -/

namespace Sys2Proof.Machine

theorem Mem.read_cons_self (m : List (Nat × Word)) (a : Nat) (v : Word) (h : v = 0 → Mem.read m a = 0) :
    Mem.read (Mem.cons a v m) a = v := by
  unfold Mem.cons
  split <;> rename_i hv
  · rw [h hv, hv]
  · simp [Mem.read]

theorem Mem.read_cons_other (m : List (Nat × Word)) (a b : Nat) (v : Word) (h : b ≠ a) :
    Mem.read (Mem.cons a v m) b = Mem.read m b := by
  unfold Mem.cons
  split
  · rfl
  · simp [Mem.read, h]

/-- A cell below every listed address reads what an unlisted cell reads. -/
theorem Mem.read_below (m : List (Nat × Word)) (a : Nat) (h : ∀ c ∈ m, a < c.1) : Mem.read m a = 0 := by
  induction m with
  | nil => rfl
  | cons c m ih =>
    have hc := h c (by simp)
    simp only [Mem.read]
    rw [if_neg (by omega)]
    exact ih (fun d hd => h d (by simp [hd]))

theorem Mem.wf_tail {c : Nat × Word} {m : List (Nat × Word)} (h : Mem.wf (c :: m)) : Mem.wf m :=
  ⟨(List.pairwise_cons.1 h.1).2, fun d hd => h.2 d (by simp [hd])⟩

theorem Mem.wf_head {c : Nat × Word} {m : List (Nat × Word)} (h : Mem.wf (c :: m)) : ∀ d ∈ m, c.1 < d.1 :=
  (List.pairwise_cons.1 h.1).1

/-- A read after a write: the written word in the written cell, what was there in every other one. -/
theorem Mem.read_write (m : List (Nat × Word)) (a : Nat) (v : Word) (h : Mem.wf m) (b : Nat) :
    Mem.read (Mem.write m a v) b = if b = a then v else Mem.read m b := by
  induction m with
  | nil =>
    simp only [Mem.write]
    split
    · rename_i hb; subst hb; exact Mem.read_cons_self _ _ _ (fun _ => rfl)
    · rename_i hb; exact Mem.read_cons_other _ _ _ _ hb
  | cons c m ih =>
    obtain ⟨c1, c2⟩ := c
    have hh := Mem.wf_head h
    simp only [Mem.write]
    split <;> rename_i h1
    · split
      · rename_i hb; subst hb
        refine Mem.read_cons_self _ _ _ (fun _ => Mem.read_below _ _ ?_)
        intro d hd; rcases List.mem_cons.1 hd with rfl | hd
        · exact h1
        · have := hh d hd; simp at this; omega
      · rename_i hb; exact Mem.read_cons_other _ _ _ _ hb
    split <;> rename_i h2
    · subst h2
      split
      · rename_i hb; subst hb
        refine Mem.read_cons_self _ _ _ (fun _ => Mem.read_below _ _ hh)
      · rename_i hb; rw [Mem.read_cons_other _ _ _ _ hb]; simp [Mem.read, hb]
    · simp only [Mem.read, ih (Mem.wf_tail h)]
      split
      · rename_i hb; subst hb; rw [if_neg (fun h => h2 h.symm)]
      · rfl

theorem Mem.mem_cons {a : Nat} {v : Word} {m : List (Nat × Word)} {c : Nat × Word} (h : c ∈ Mem.cons a v m) :
    c = (a, v) ∨ c ∈ m := by
  unfold Mem.cons at h
  split at h
  · exact .inr h
  · simpa using h

/-- Every cell a write lists is the written one or was listed before. -/
theorem Mem.mem_write {m : List (Nat × Word)} {a : Nat} {v : Word} {c : Nat × Word} (h : c ∈ Mem.write m a v) :
    c = (a, v) ∨ c ∈ m := by
  induction m with
  | nil => exact (Mem.mem_cons h).imp_right (by simp)
  | cons d m ih =>
    simp only [Mem.write] at h
    split at h
    · exact Mem.mem_cons h
    split at h
    · exact (Mem.mem_cons h).imp_right (fun h => by simp [h])
    · rcases List.mem_cons.1 h with h | h
      · exact .inr (by simp [h])
      · exact (ih h).imp_right (fun h => by simp [h])

theorem Mem.wf_cons {a : Nat} {v : Word} {m : List (Nat × Word)} (h : Mem.wf m) (hl : ∀ c ∈ m, a < c.1) :
    Mem.wf (Mem.cons a v m) := by
  unfold Mem.cons
  split <;> rename_i hv
  · exact h
  · exact ⟨List.pairwise_cons.2 ⟨hl, h.1⟩, fun c hc => by
      rcases List.mem_cons.1 hc with rfl | hc
      · exact hv
      · exact h.2 c hc⟩

/-- A write keeps the canonical form. -/
theorem Mem.wf_write {m : List (Nat × Word)} (h : Mem.wf m) (a : Nat) (v : Word) : Mem.wf (Mem.write m a v) := by
  induction m with
  | nil => exact Mem.wf_cons h (by simp)
  | cons c m ih =>
    have hh := Mem.wf_head h
    simp only [Mem.write]
    split <;> rename_i h1
    · refine Mem.wf_cons h (fun d hd => ?_)
      rcases List.mem_cons.1 hd with rfl | hd
      · exact h1
      · exact Nat.lt_trans h1 (hh d hd)
    split <;> rename_i h2
    · exact Mem.wf_cons (Mem.wf_tail h) (fun d hd => h2 ▸ hh d hd)
    · refine ⟨List.pairwise_cons.2 ⟨fun d hd => ?_, (ih (Mem.wf_tail h)).1⟩, fun d hd => ?_⟩
      · rcases Mem.mem_write hd with rfl | hd
        · simp only; omega
        · exact hh d hd
      · rcases List.mem_cons.1 hd with rfl | hd
        · exact h.2 _ (by simp)
        · exact (ih (Mem.wf_tail h)).2 d hd

end Sys2Proof.Machine
end

