-- ==== Sys2Proof/Laws/PerInstr.lean ====
section
/-! SUPPORT. What is proved of every instruction as syntax, one lemma per constructor: a record with the fields its format names
decodes back to the instruction, for a machine of any number of logical registers and any
width. -/

namespace Sys2Proof.Laws

theorem takeReg_ok (n : Nat) (f : RegField) (v : Nat) (h : v < n) : takeReg n f (some v) = .ok v := by
  simp [takeReg, h]

theorem takeImm_ok (w : Nat) (v : Word) (h : isWord w v) : takeImm w v = .ok v := by
  simp [takeImm, h]

theorem decodeRRR_ok (n : Nat) (op : BitVec 5) (a b c : Nat) (d : Option Nat) (imm : Word)
    (mk : Nat → Nat → Nat → Instr) (h : (decide (a < n) && decide (b < n) && decide (c < n)) = true) :
    decodeRRR n ⟨op, some a, some b, some c, d, imm⟩ mk = .ok (mk a b c) := by
  simp only [Bool.and_eq_true, decide_eq_true_eq] at h
  simp only [decodeRRR, takeReg_ok n _ _ h.1.1, takeReg_ok n _ _ h.1.2, takeReg_ok n _ _ h.2]
  rfl

theorem decodeRRI_ok (n w : Nat) (op : BitVec 5) (a b : Nat) (c d : Option Nat) (imm : Word)
    (mk : Nat → Nat → Word → Instr) (h : (decide (a < n) && decide (b < n) && decide (isWord w imm)) = true) :
    decodeRRI n w ⟨op, some a, some b, c, d, imm⟩ mk = .ok (mk a b imm) := by
  simp only [Bool.and_eq_true, decide_eq_true_eq] at h
  simp only [decodeRRI, takeReg_ok n _ _ h.1.1, takeReg_ok n _ _ h.1.2, takeImm_ok w _ h.2]
  rfl

theorem decodeRI_ok (n w : Nat) (op : BitVec 5) (a : Nat) (b c d : Option Nat) (imm : Word)
    (mk : Nat → Word → Instr) (h : (decide (a < n) && decide (isWord w imm)) = true) :
    decodeRI n w ⟨op, some a, b, c, d, imm⟩ mk = .ok (mk a imm) := by
  simp only [Bool.and_eq_true, decide_eq_true_eq] at h
  simp only [decodeRI, takeReg_ok n _ _ h.1, takeImm_ok w _ h.2]
  rfl

theorem decodeSRI_ok (n w : Nat) (op : BitVec 5) (a b : Nat) (c d : Option Nat) (imm : Word)
    (mk : Nat → Nat → Word → Instr) (h : (decide (a < n) && decide (b < n) && decide (isWord w imm)) = true) :
    decodeSRI n w ⟨op, c, some a, some b, d, imm⟩ mk = .ok (mk a b imm) := by
  simp only [Bool.and_eq_true, decide_eq_true_eq] at h
  simp only [decodeSRI, takeReg_ok n _ _ h.1.1, takeReg_ok n _ _ h.1.2, takeImm_ok w _ h.2]
  rfl

theorem decodeSRR_ok (n : Nat) (op : BitVec 5) (a b c : Nat) (d : Option Nat) (imm : Word)
    (mk : Nat → Nat → Nat → Instr) (h : (decide (a < n) && decide (b < n) && decide (c < n)) = true) :
    decodeSRR n ⟨op, d, some a, some b, some c, imm⟩ mk = .ok (mk a b c) := by
  simp only [Bool.and_eq_true, decide_eq_true_eq] at h
  simp only [decodeSRR, takeReg_ok n _ _ h.1.1, takeReg_ok n _ _ h.1.2, takeReg_ok n _ _ h.2]
  rfl

theorem decodeJI_ok (n w : Nat) (op : BitVec 5) (a : Nat) (b c d : Option Nat) (imm : Word)
    (mk : Nat → Word → Instr) (h : (decide (a < n) && decide (isWord w imm)) = true) :
    decodeJI n w ⟨op, b, some a, c, d, imm⟩ mk = .ok (mk a imm) := by
  simp only [Bool.and_eq_true, decide_eq_true_eq] at h
  simp only [decodeJI, takeReg_ok n _ _ h.1, takeImm_ok w _ h.2]
  rfl

theorem decodeI_ok (w : Nat) (op : BitVec 5) (a b c d : Option Nat) (imm : Word) (mk : Word → Instr)
    (h : decide (isWord w imm) = true) : decodeI w ⟨op, a, b, c, d, imm⟩ mk = .ok (mk imm) := by
  simp only [decodeI, takeImm_ok w _ (of_decide_eq_true h)]
  rfl

namespace RecordRoundTrip

/-- The record of a well-formed instruction decodes to that instruction (R80, R83, R87). -/
def Statement (i : Instr) : Prop := ∀ n w : Nat, i.wf n w = true → decode n w (encodeRecord i) = .ok i

theorem add (rd rs1 rs2 : Nat) : Statement (.add rd rs1 rs2) := fun n _ h => decodeRRR_ok n 0 rd rs1 rs2 none 0 _ h

theorem sub (rd rs1 rs2 : Nat) : Statement (.sub rd rs1 rs2) := fun n _ h => decodeRRR_ok n 1 rd rs1 rs2 none 0 _ h

theorem addl (rd rs1 : Nat) (imm : Word) : Statement (.addl rd rs1 imm) :=
  fun n w h => decodeRRI_ok n w 2 rd rs1 none none imm _ h

theorem subl (rd rs1 : Nat) (imm : Word) : Statement (.subl rd rs1 imm) :=
  fun n w h => decodeRRI_ok n w 3 rd rs1 none none imm _ h

theorem and (rd rs1 rs2 : Nat) : Statement (.and rd rs1 rs2) := fun n _ h => decodeRRR_ok n 4 rd rs1 rs2 none 0 _ h

theorem or (rd rs1 rs2 : Nat) : Statement (.or rd rs1 rs2) := fun n _ h => decodeRRR_ok n 5 rd rs1 rs2 none 0 _ h

theorem xor (rd rs1 rs2 : Nat) : Statement (.xor rd rs1 rs2) := fun n _ h => decodeRRR_ok n 6 rd rs1 rs2 none 0 _ h

theorem mul (rd rs1 rs2 : Nat) : Statement (.mul rd rs1 rs2) := fun n _ h => decodeRRR_ok n 7 rd rs1 rs2 none 0 _ h

theorem cmp (rd rs1 rs2 : Nat) : Statement (.cmp rd rs1 rs2) := fun n _ h => decodeRRR_ok n 8 rd rs1 rs2 none 0 _ h

theorem movc (rd : Nat) (imm : Word) : Statement (.movc rd imm) :=
  fun n w h => decodeRI_ok n w 9 rd none none none imm _ h

theorem load (rd rs1 : Nat) (imm : Word) : Statement (.load rd rs1 imm) :=
  fun n w h => decodeRRI_ok n w 10 rd rs1 none none imm _ h

theorem store (rs1 rs2 : Nat) (imm : Word) : Statement (.store rs1 rs2 imm) :=
  fun n w h => decodeSRI_ok n w 11 rs1 rs2 none none imm _ h

theorem ldr (rd rs1 rs2 : Nat) : Statement (.ldr rd rs1 rs2) := fun n _ h => decodeRRR_ok n 12 rd rs1 rs2 none 0 _ h

theorem str (rs1 rs2 rs3 : Nat) : Statement (.str rs1 rs2 rs3) := fun n _ h => decodeSRR_ok n 13 rs1 rs2 rs3 none 0 _ h

theorem jump (rs1 : Nat) (imm : Word) : Statement (.jump rs1 imm) :=
  fun n w h => decodeJI_ok n w 14 rs1 none none none imm _ h

theorem jal (rd rs1 : Nat) (imm : Word) : Statement (.jal rd rs1 imm) :=
  fun n w h => decodeRRI_ok n w 15 rd rs1 none none imm _ h

theorem bz (imm : Word) : Statement (.bz imm) := fun _ w h => decodeI_ok w 16 none none none none imm _ h

theorem bnz (imm : Word) : Statement (.bnz imm) := fun _ w h => decodeI_ok w 17 none none none none imm _ h

theorem nop : Statement .nop := fun _ _ _ => rfl

theorem halt : Statement .halt := fun _ _ _ => rfl

end RecordRoundTrip

end Sys2Proof.Laws
end

