-- ==== Sys2Proof/Laws/Rob.lean ====
section
/-! SUPPORT. The reorder buffer as a window of entries: what Pop, allocation, an entry's update and the ROB reset do to the list of
entries in flight and to the window invariant. -/

namespace Sys2Proof.Machine

theorem State.robAt_eq (s : State) (i : Nat) (h : i < s.rob.length) : s.robAt i = s.rob[i] := by
  simp [State.robAt, List.getElem?_eq_getElem h]

theorem State.robAt_update (s : State) (i j : Nat) (f : RobEntry → RobEntry) :
    (s.robUpdate i f).robAt j = if i = j then (s.robAt j).map f else s.robAt j := by
  simp only [State.robAt, State.robUpdate_rob, List.getElem?_modify]
  split
  · cases s.rob[j]? <;> simp
  · simp

@[simp] theorem State.robAt_map_none (l : List (Option RobEntry)) (i : Nat) :
    ((l.map (fun _ => (none : Option RobEntry)))[i]?).join = none := by
  cases h : (l.map (fun _ => (none : Option RobEntry)))[i]? with
  | none => rfl
  | some x =>
    simp only [List.getElem?_map, Option.map_eq_some_iff] at h
    obtain ⟨_, _, rfl⟩ := h; rfl

/-- Rewriting fields of an entry changes no entry's `g`, if the rewriting keeps `g`. -/
theorem State.inFlight_update {α : Type} (s : State) (i : Nat) (f : RobEntry → RobEntry) (g : RobEntry → α)
    (h : ∀ e, g (f e) = g e) : (s.robUpdate i f).inFlight.map g = s.inFlight.map g := by
  simp only [State.inFlight, State.robUpdate_count, List.map_filterMap]
  apply List.filterMap_congr
  intro j _
  simp only [State.robIndex, State.robUpdate_head, State.robUpdate_rob, List.length_modify, State.robAt_update]
  split
  · cases s.robAt ((s.head + j) % s.rob.length) <;> simp [h]
  · rfl

theorem replay_congr (t : List (Option Nat)) (es fs : List RobEntry)
    (h : es.map (fun e => (e.rd, e.pd)) = fs.map (fun e => (e.rd, e.pd))) : replay t es = replay t fs := by
  induction es generalizing t fs with
  | nil => cases fs with
    | nil => rfl
    | cons => simp at h
  | cons e es ih =>
    cases fs with
    | nil => simp at h
    | cons f fs =>
      simp only [List.map_cons, List.cons.injEq, Prod.mk.injEq] at h
      obtain ⟨⟨h1, h2⟩, h3⟩ := h
      simp only [replay, List.foldl_cons, h1, h2]
      exact ih _ _ h3

theorem replay_append (t : List (Option Nat)) (es fs : List RobEntry) :
    replay t (es ++ fs) = replay (replay t es) fs := by
  simp [replay, List.foldl_append]

theorem replay_length (t : List (Option Nat)) (es : List RobEntry) : (replay t es).length = t.length := by
  induction es generalizing t with
  | nil => rfl
  | cons e es ih =>
    simp only [replay, List.foldl_cons] at ih ⊢
    rw [ih]
    split <;> simp

theorem State.inFlight_empty (s : State) (h : s.count = 0) : s.inFlight = [] := by
  simp [State.inFlight, h]

theorem mod_add_one {a n : Nat} : (a % n + 1) % n = (a + 1) % n := by
  simp [Nat.add_mod]

/-- Pop takes the oldest entry off the list of entries in flight. -/
theorem State.inFlight_pop (s : State) (e : RobEntry) (hr : s.RobOk) (he : s.headEntry = some e) :
    s.inFlight = e :: s.pop.inFlight := by
  have hc : s.count ≠ 0 := by intro h; simp [State.headEntry, h] at he
  have he' : s.robAt s.head = some e := by simpa [State.headEntry, hc] using he
  obtain ⟨n, hn⟩ := Nat.exists_eq_succ_of_ne_zero hc
  have hh := hr.head
  simp only [State.inFlight, State.pop_count, hn, Nat.succ_sub_one, List.range_succ_eq_map]
  have h0 : s.robAt (s.robIndex 0) = some e := by simp [State.robIndex, Nat.mod_eq_of_lt hh, he']
  rw [List.filterMap_cons, h0]
  simp only [List.filterMap_map]
  congr 1
  apply List.filterMap_congr
  intro j hj
  have hj' : j < n := List.mem_range.1 hj
  have hcl := hr.count
  simp only [Function.comp, State.robIndex, State.pop_head, State.pop_rob, List.length_set, State.robAt]
  have e1 : (s.head + j.succ) % s.rob.length = ((s.head + 1) % s.rob.length + j) % s.rob.length := by
    rw [Nat.mod_add_mod]; congr 1; omega
  rw [e1, List.getElem?_set_ne]
  rw [Nat.mod_add_mod]
  intro hcon
  have hlt : s.head + 1 + j < 2 * s.rob.length := by omega
  rcases Nat.lt_or_ge (s.head + 1 + j) s.rob.length with h | h
  · rw [Nat.mod_eq_of_lt h] at hcon; omega
  · rw [Nat.mod_eq_sub_mod h, Nat.mod_eq_of_lt (by omega)] at hcon; omega

/-- Allocation puts the entry at the young end of the list. -/
theorem State.inFlight_push (s : State) (e : RobEntry) (hr : s.RobOk) (hc : s.count < s.rob.length) :
    (s.push e).inFlight = s.inFlight ++ [e] := by
  have hh := hr.head
  simp only [State.inFlight, State.push_count, List.range_succ, List.filterMap_append]
  congr 1
  · apply List.filterMap_congr
    intro j hj
    have hj' : j < s.count := List.mem_range.1 hj
    simp only [State.robIndex, State.push_head, State.push_rob, List.length_set, State.robAt, hr.tail]
    rw [List.getElem?_set_ne]
    intro hcon
    rcases Nat.lt_or_ge (s.head + s.count) s.rob.length with h | h <;>
    rcases Nat.lt_or_ge (s.head + j) s.rob.length with h' | h'
    · rw [Nat.mod_eq_of_lt h, Nat.mod_eq_of_lt h'] at hcon; omega
    · omega
    · rw [Nat.mod_eq_sub_mod h, Nat.mod_eq_of_lt (by omega), Nat.mod_eq_of_lt h'] at hcon; omega
    · rw [Nat.mod_eq_sub_mod h, Nat.mod_eq_of_lt (by omega), Nat.mod_eq_sub_mod h', Nat.mod_eq_of_lt (by omega)] at hcon
      omega
  · have hl : (s.head + s.count) % s.rob.length < s.rob.length := Nat.mod_lt _ (by omega)
    simp [State.robIndex, State.robAt, hr.tail, List.getElem?_set, hl]

theorem State.robReset_inFlight (s : State) (a : Word) : (s.robReset a).inFlight = [] := by
  simp [State.inFlight]

/-- The head entry of a ROB that is not empty. -/
theorem State.headEntry_some {s : State} {e} (h : s.headEntry = some e) : s.count ≠ 0 ∧ s.robAt s.head = some e := by
  unfold State.headEntry at h; split at h
  · cases h
  · exact ⟨by assumption, h⟩

/-- Different places of the window are different entries. -/
theorem State.robIndex_inj {s : State} (hr : s.RobOk) {i j : Nat} (hi : i < s.rob.length) (hj : j < s.rob.length)
    (h : s.robIndex i = s.robIndex j) : i = j := by
  unfold State.robIndex at h
  have hh := hr.head
  rcases Nat.lt_or_ge (s.head + i) s.rob.length with h1 | h1 <;>
  rcases Nat.lt_or_ge (s.head + j) s.rob.length with h2 | h2
  · rw [Nat.mod_eq_of_lt h1, Nat.mod_eq_of_lt h2] at h; omega
  · rw [Nat.mod_eq_of_lt h1, Nat.mod_eq_sub_mod h2, Nat.mod_eq_of_lt (by omega)] at h; omega
  · rw [Nat.mod_eq_of_lt h2, Nat.mod_eq_sub_mod h1, Nat.mod_eq_of_lt (by omega)] at h; omega
  · rw [Nat.mod_eq_sub_mod h1, Nat.mod_eq_sub_mod h2, Nat.mod_eq_of_lt (by omega), Nat.mod_eq_of_lt (by omega)] at h; omega

/-- The window depends only on the cursors and on which entries are occupied. -/
theorem State.RobOk.same {s t : State} (h : s.RobOk) (h1 : t.head = s.head) (h2 : t.count = s.count)
    (h3 : t.tail = s.tail) (h4 : t.rob.length = s.rob.length)
    (h5 : ∀ i, (t.robAt i).isSome = (s.robAt i).isSome) : t.RobOk :=
  ⟨by rw [h1, h4]; exact h.head, by rw [h2, h4]; exact h.count, by rw [h1, h2, h3, h4]; exact h.tail, fun j hj => by
    rw [h4] at hj
    rw [h5, h2]; unfold State.robIndex; rw [h1, h4]; exact h.occupied j hj⟩

/-- Pop keeps the window. -/
theorem State.RobOk.pop {s : State} {e} (hr : s.RobOk) (he : s.headEntry = some e) : s.pop.RobOk := by
  obtain ⟨hc, h0⟩ := State.headEntry_some he
  have hh := hr.head; have hcl := hr.count
  refine ⟨?_, ?_, ?_, ?_⟩
  · simp; exact Nat.mod_lt _ (by omega)
  · simp; omega
  · simp [hr.tail]; congr 1; omega
  · intro j hj
    simp only [State.pop_rob, List.length_set, State.pop_count] at hj ⊢
    have e1 : s.pop.robIndex j = (s.head + (j + 1)) % s.rob.length := by
      simp [State.robIndex]; congr 1; omega
    rw [e1]
    have e2 : s.pop.robAt ((s.head + (j + 1)) % s.rob.length) =
        if s.head = (s.head + (j + 1)) % s.rob.length then none else s.robAt ((s.head + (j + 1)) % s.rob.length) := by
      simp only [State.robAt, State.pop_rob, List.getElem?_set]
      split <;> simp
    rw [e2]
    by_cases hl : j + 1 < s.rob.length
    · have : s.head ≠ (s.head + (j+1)) % s.rob.length := by
        intro h
        have := State.robIndex_inj hr (i := 0) (j := j+1) (by omega) hl (by simpa [State.robIndex, Nat.mod_eq_of_lt hh] using h)
        omega
      rw [if_neg this]
      have := hr.occupied (j+1) hl
      unfold State.robIndex at this
      rw [this]; omega
    · have e3 : j + 1 = s.rob.length := by omega
      have : s.head = (s.head + (j+1)) % s.rob.length := by rw [e3]; simp [Nat.mod_eq_of_lt hh]
      rw [if_pos this]; simp; omega

/-- Allocation keeps the window, where there is room. -/
theorem State.RobOk.push {s : State} {e} (hr : s.RobOk) (hc : s.count < s.rob.length) : (s.push e).RobOk := by
  have hh := hr.head
  refine ⟨by simpa using hh, by simp; omega, ?_, ?_⟩
  · simp [hr.tail]; congr 1
  · intro j hj
    simp only [State.push_rob, List.length_set, State.push_count] at hj ⊢
    have e1 : (s.push e).robIndex j = s.robIndex j := by simp [State.robIndex]
    have e2 : (s.push e).robAt (s.robIndex j) = if s.tail = s.robIndex j then some e else s.robAt (s.robIndex j) := by
      have : s.robIndex j < s.rob.length := Nat.mod_lt _ (by omega)
      simp only [State.robAt, State.push_rob, List.getElem?_set]
      split
      · simp_all
      · rfl
    rw [e1, e2]
    split
    · rename_i h
      rw [hr.tail] at h
      have := State.robIndex_inj hr (i := s.count) (j := j) hc hj h
      simp; omega
    · rename_i h
      rw [hr.occupied j hj]
      have : j ≠ s.count := by rintro rfl; exact h (by rw [hr.tail]; rfl)
      omega

/-- A ROB reset leaves an empty window. -/
theorem State.RobOk.reset {s : State} {a} (hr : s.rob.length ≠ 0) : (s.robReset a).RobOk := by
  refine ⟨by simp; omega, by simp, by simp, ?_⟩
  intro j hj
  simp only [State.robAt, State.robReset_rob, State.robAt_map_none]; simp

/-- Rewriting fields of an entry keeps the window. -/
theorem State.RobOk.upd {s : State} (hr : s.RobOk) (i f) : (s.robUpdate i f).RobOk :=
  hr.same rfl rfl rfl (by simp) (fun j => by rw [State.robAt_update]; split <;> simp)

/-- Updates of other fields keep the window. -/
theorem State.RobOk.eq {s t : State} (h : s.RobOk) (h1 : t.head = s.head) (h2 : t.count = s.count)
    (h3 : t.tail = s.tail) (h4 : t.rob = s.rob) : t.RobOk :=
  h.same h1 h2 h3 (by rw [h4]) (fun i => by simp [State.robAt, h4])

/-- Dispatch that does not stall has every resource it needs. -/
theorem State.stalls_false {s : State} {i : Instr} {ps : List Nat} (h : s.stalls i ps = false) :
    s.count < s.rob.length ∧ (i.producer = true → ∃ pd, s.freePhys = some pd) ∧
    (s.needsIq i ps = true → ∃ k, s.freeIq = some k) := by
  simp only [State.stalls, Bool.or_eq_false_iff, decide_eq_false_iff_not, Bool.and_eq_false_iff] at h
  refine ⟨by omega, fun h' => ?_, fun h' => ?_⟩
  · rcases h.1.2 with h1 | h1
    · simp [h1] at h'
    · cases hf : s.freePhys <;> simp_all
  · rcases h.2 with h1 | h1
    · simp [h1] at h'
    · cases hf : s.freeIq <;> simp_all

end Sys2Proof.Machine
end

