-- ==== Sys2Proof/Tests/Slice0.lean ====
section
/-! SUPPORT. Tests: ill-formed terms that WellFormed refuses, decoding of words written out from the spec, one step of each
instruction with the spec's own example values, and for every statement with hypotheses a state and operands that meet them. -/

namespace Sys2Proof.Tests

open Sys2Proof.Machine

/-! ### Well-formedness: each register field of each form is checked (R80, R87) -/

theorem test_wf_accepts_r15 : (Instr.add 15 15 15).wf 16 32 = true ∧ (Instr.str 15 15 15).wf 16 32 = true ∧
    (Instr.jal 15 15 0).wf 16 32 = true ∧ Instr.nop.wf 0 32 = true := by decide

theorem test_wf_refuses_rd : (Instr.add 16 1 2).wf 16 32 = false ∧ (Instr.sub 16 1 2).wf 16 32 = false ∧
    (Instr.addl 16 1 0).wf 16 32 = false ∧ (Instr.subl 16 1 0).wf 16 32 = false ∧ (Instr.and 16 1 2).wf 16 32 = false ∧
    (Instr.or 16 1 2).wf 16 32 = false ∧ (Instr.xor 16 1 2).wf 16 32 = false ∧ (Instr.mul 16 1 2).wf 16 32 = false ∧
    (Instr.cmp 16 1 2).wf 16 32 = false ∧ (Instr.movc 16 0).wf 16 32 = false ∧ (Instr.load 16 1 0).wf 16 32 = false ∧
    (Instr.ldr 16 1 2).wf 16 32 = false ∧ (Instr.jal 16 1 0).wf 16 32 = false := by decide

theorem test_wf_refuses_rs1 : (Instr.add 1 16 2).wf 16 32 = false ∧ (Instr.sub 1 16 2).wf 16 32 = false ∧
    (Instr.addl 1 16 0).wf 16 32 = false ∧ (Instr.subl 1 16 0).wf 16 32 = false ∧ (Instr.and 1 16 2).wf 16 32 = false ∧
    (Instr.or 1 16 2).wf 16 32 = false ∧ (Instr.xor 1 16 2).wf 16 32 = false ∧ (Instr.mul 1 16 2).wf 16 32 = false ∧
    (Instr.cmp 1 16 2).wf 16 32 = false ∧ (Instr.load 1 16 0).wf 16 32 = false ∧ (Instr.store 16 1 0).wf 16 32 = false ∧
    (Instr.ldr 1 16 2).wf 16 32 = false ∧ (Instr.str 16 1 2).wf 16 32 = false ∧ (Instr.jump 16 0).wf 16 32 = false ∧
    (Instr.jal 1 16 0).wf 16 32 = false := by decide

theorem test_wf_refuses_rs2 : (Instr.add 1 2 16).wf 16 32 = false ∧ (Instr.sub 1 2 16).wf 16 32 = false ∧
    (Instr.and 1 2 16).wf 16 32 = false ∧ (Instr.or 1 2 16).wf 16 32 = false ∧ (Instr.xor 1 2 16).wf 16 32 = false ∧
    (Instr.mul 1 2 16).wf 16 32 = false ∧ (Instr.cmp 1 2 16).wf 16 32 = false ∧ (Instr.store 1 16 0).wf 16 32 = false ∧
    (Instr.ldr 1 2 16).wf 16 32 = false ∧ (Instr.str 1 16 2).wf 16 32 = false := by decide

theorem test_wf_refuses_rs3 : (Instr.str 1 2 16).wf 16 32 = false := by decide

/-- 256 is no word of 8 bits, and 255 is one (R80, R85). -/
theorem test_wf_refuses_imm : (∀ i ∈ [Instr.addl 1 2 256, .subl 1 2 256, .movc 1 256, .load 1 2 256, .store 1 2 256, .jump 1 256,
    .jal 1 2 256, .bz 256, .bnz 256], i.wf 16 8 = false) ∧ (Instr.movc 1 255).wf 16 8 = true := by decide

/-! ### Decoding: words written out from R91, `opcode | rd << 5 | rs1 << 9 | rs2 << 13 | rs3 << 17` -/

/-- INT: ADD R3,R1,R2 is 0x04260, and so on with the opcodes 1 to 6 and 8 of R82. -/
theorem test_decode_int_rrr : decodeKey 16 32 0x04260 0 = .ok (.add 3 1 2) ∧ decodeKey 16 32 0x04261 0 = .ok (.sub 3 1 2) ∧
    decodeKey 16 32 0x04264 0 = .ok (.and 3 1 2) ∧ decodeKey 16 32 0x04265 0 = .ok (.or 3 1 2) ∧
    decodeKey 16 32 0x04266 0 = .ok (.xor 3 1 2) ∧ decodeKey 16 32 0x02368 0 = .ok (.cmp 11 1 1) := by decide

theorem test_decode_int_literal : decodeKey 16 32 0x00262 (wrap 32 (-1)) = .ok (.addl 3 1 (wrap 32 (-1))) ∧
    decodeKey 16 32 0x00523 3 = .ok (.subl 9 2 3) ∧ decodeKey 16 32 0x00029 5 = .ok (.movc 1 5) := by decide

/-- MUL R2,R1,R1 is 0x02247 (L1-C). -/
theorem test_decode_mul : decodeKey 16 32 0x02247 0 = .ok (.mul 2 1 1) := by decide

/-- MEM1 to MEM4 of 95_test_vectors.md: destination, data, base and index each in its own field. -/
theorem test_decode_mem : decodeKey 16 32 0x0026A 4 = .ok (.load 3 1 4) ∧ decodeKey 16 32 0x0426C 0 = .ok (.ldr 3 1 2) ∧
    decodeKey 16 32 0x0420B (wrap 32 (-4)) = .ok (.store 1 2 (wrap 32 (-4))) ∧ decodeKey 16 32 0x6420D 0 = .ok (.str 1 2 3) := by decide

/-- JUMP R1,#8 and JAL R4,R1,#0, BZ #8 and BNZ #8 of 95_test_vectors.md. -/
theorem test_decode_branch : decodeKey 16 32 0x0020E 8 = .ok (.jump 1 8) ∧ decodeKey 16 32 0x0028F 0 = .ok (.jal 4 1 0) ∧
    decodeKey 16 32 0x00010 8 = .ok (.bz 8) ∧ decodeKey 16 32 0x00011 8 = .ok (.bnz 8) := by decide

theorem test_decode_nop_halt : decodeKey 16 32 0x00012 0 = .ok .nop ∧ decodeKey 16 32 0x00013 0 = .ok .halt := by decide

/-- Opcodes 20 to 31 spell nothing (R82, R87). -/
theorem test_decode_unknown : decodeKey 16 32 20 0 = .error (.unknownOpcode 20) ∧
    decodeKey 16 32 31 0 = .error (.unknownOpcode 31) := by decide

/-- A used field that is absent or out of range is refused; an unused one is ignored (R83, R87). -/
theorem test_decode_fields : decode 16 32 ⟨0, some 1, some 2, none, none, 0⟩ = .error (.absentField .rs2) ∧
    decode 16 32 ⟨9, some 16, none, none, none, 0⟩ = .error (.fieldOutOfRange .rd 16) ∧
    decode 16 32 ⟨9, some 1, some 99, none, some 99, 0⟩ = .ok (.movc 1 0) ∧
    decode 16 8 ⟨16, none, none, none, none, 256⟩ = .error (.immediateTooWide 256) := by decide

/-- The key word has 21 bits: a higher bit is refused (log 6). -/
theorem test_decode_stray : decodeKey 16 32 0x00204260 0 = .error .strayKeyBits ∧
    decodeTableWord 64 (0x04260 + 2 ^ 63) = some (.add 3 1 2) := by decide

theorem test_encode_words : encode (.str 1 2 3) = (0x6420D, 0) ∧ encode (.store 1 2 (wrap 32 (-4))) = (0x0420B, wrap 32 (-4)) ∧
    encode (.jal 15 14 0) = (0x01DEF, 0) := by decide

/-! ### Words (R11), by the examples of R11 and R193 and by hand -/

/-- At 8 bits: 0x80 is -128, 127 + 1 = 128, 0 - 1 = 255, 255 * 255 = 1, and wrap of 256 and -1. -/
theorem test_words : signed 8 128 = -128 ∧ signed 8 127 = 127 ∧ wordAdd 8 127 1 = 128 ∧ wordSub 8 0 1 = 255 ∧
    wordMul 8 255 255 = 1 ∧ wrap 8 256 = 0 ∧ wrap 8 (-1) = 255 := by decide

/-- The corner cases of R193 at 32 bits. -/
theorem test_words_mul : wordMul 32 0x7FFFFFFF 0x7FFFFFFF = 1 ∧ wordMul 32 0x80000000 0xFFFFFFFF = 0x80000000 := by decide

/-- R10: L_MEM at least 2, DMEM_SIZE at least 1; R9: L_MUL is 3; an 8-bit machine needs a base address of 8 bits. -/
theorem test_params : Params.default.wf ∧ ¬ ({ lMem := 1 } : Params).wf ∧ ¬ ({ dmemSize := 0 } : Params).wf ∧
    ¬ ({ lMul := 4 } : Params).wf ∧ ¬ ({ xlen := 8 } : Params).wf ∧ ({ xlen := 8, basePc := 100, lMem := 5 } : Params).wf :=
  ⟨by decide, by decide, by decide, by decide, by decide, by decide⟩

/-! ### Small states -/

/-- A machine with 4 logical and 6 physical registers, 2 issue-queue slots and 4 ROB entries; R0, R1 and R2 hold 12, 10 and
100 in slots 0, 1 and 2. -/
def small : State :=
  (((State.resetWith { nArch := 4, nPhys := 6, nIq := 2, nRob := 4 }).preloadReg 0 12).preloadReg 1 10).preloadReg 2 100

/-- `small` with `i`, at address 4004, in L.D. -/
def decoded (i : Instr) : State := { small with ld := some { pc := 4004, insn := i } }

/-- The micro-op of `i` with sources in slots 0, 1 and 2, destination slot 3 and ROB entry 0. -/
def op (i : Instr) : IqEntry := { insn := i, ps1 := some 0, ps2 := some 1, ps3 := some 2, pd := some 3, rob := 0 }

/-- The ROB entry of `i` at address 4004 with result 7 and effective address or target 4016. -/
def entry (i : Instr) : RobEntry :=
  { pc := 4004, insn := i, ps1 := some 0, ps2 := some 1, ps3 := some 2, pd := some 3, result := 7, ea := 4016
    taken := true, resultValid := true, memReady := false, exc := .none }

/-- `small` with the entry of `i` alone in the ROB and slot 3 claimed, at stage `st`. -/
def at_ (st : Stage) (i : Instr) : State :=
  { small with
    prf := claimSlot small.prf 3, rob := small.rob.set 0 (some (entry i)), tail := 1, count := 1, stage := st }

/-- The next state of a result. -/
def nextOf : Result → Option State
  | .next s => some s
  | .fault _ => none
  | .refused _ => none

theorem nextOf_some {r : Result} (h : (nextOf r).isSome = true) : ∃ t, r = .next t := by
  cases r with
  | next t => exact ⟨t, rfl⟩
  | fault f => cases h
  | refused f => cases h

/-- The result that the head entry of a ROB with one entry holds, and Z. -/
def resultZ (r : Result) : Option (Word × Bool) :=
  match nextOf r with
  | some t => match t.robAt 0 with
    | some e => some (e.result, t.z)
    | none => none
  | none => none

/-! ### One step of each instruction, with the examples of 42 to 46 (R0 = 12, R1 = 10, R2 = 100) -/

/-- `small` at the integer stage with `i` in L.INT and Z = `z`. -/
def atInt (i : Instr) (z : Bool) : State := { at_ .int i with lInt := some (op i), z := z }

/-- R161: 12 + 10 = 22, Z = 0. -/
theorem test_add : resultZ (exec (.add 3 0 1) (atInt (.add 3 0 1) true)) = some (22, false) := by decide

/-- R161: 0x7FFFFFFF + 1 wraps to 0x80000000, Z = 0. -/
theorem test_add_wraps : resultZ (exec (.add 3 0 1)
    { atInt (.add 3 0 1) true with prf := [⟨0x7FFFFFFF, true, true⟩, ⟨1, true, true⟩] }) = some (0x80000000, false) := by
  decide

/-- R162: 12 - 10 = 2, Z = 0. -/
theorem test_sub : resultZ (exec (.sub 3 0 1) (atInt (.sub 3 0 1) true)) = some (2, false) := by decide

/-- R162: 0x80000000 - 0x7FFFFFFF = 1. -/
theorem test_sub_wraps : resultZ (exec (.sub 3 0 1)
    { atInt (.sub 3 0 1) true with prf := [⟨0x80000000, true, true⟩, ⟨0x7FFFFFFF, true, true⟩] }) = some (1, false) := by
  decide

/-- R163: 12 + (-12) = 0, Z = 1. -/
theorem test_addl : resultZ (exec (.addl 3 0 (wrap 32 (-12))) (atInt (.addl 3 0 (wrap 32 (-12))) false)) = some (0, true) := by decide

/-- R164, with R1 = 10 as the source: 10 - 3 = 7, Z = 0. -/
theorem test_subl : resultZ (exec (.subl 3 1 3)
    { atInt (.subl 3 1 3) true with lInt := some { op (.subl 3 1 3) with ps1 := some 1 } }) = some (7, false) := by decide

/-- R165: 12 & 10 = 8, Z unchanged. -/
theorem test_and : resultZ (exec (.and 3 0 1) (atInt (.and 3 0 1) true)) = some (8, true) := by decide

/-- R165: a zero result leaves Z = 0. -/
theorem test_and_zero : resultZ (exec (.and 3 0 1)
    { atInt (.and 3 0 1) false with prf := [⟨12, true, true⟩, ⟨0, true, true⟩] }) = some (0, false) := by decide

/-- R166: 12 | 10 = 14, Z unchanged. -/
theorem test_or : resultZ (exec (.or 3 0 1) (atInt (.or 3 0 1) true)) = some (14, true) := by decide

/-- R167: 12 ^ 10 = 6, Z unchanged. -/
theorem test_xor : resultZ (exec (.xor 3 0 1) (atInt (.xor 3 0 1) true)) = some (6, true) := by decide

/-- R168: comparing a register with itself gives 0 and Z = 1. -/
theorem test_cmp : resultZ (exec (.cmp 3 0 0)
    { atInt (.cmp 3 0 0) false with lInt := some { op (.cmp 3 0 0) with ps2 := some 0 } }) = some (0, true) := by decide

/-- R169: the immediate, Z unchanged even where it is 0 (C4). -/
theorem test_movc : resultZ (exec (.movc 3 0)
    { atInt (.movc 3 0) false with lInt := some { op (.movc 3 0) with ps1 := none, ps2 := none } }) = some (0, false) := by
  decide

/-- R193: the low 32 bits of the product, 0xFFFFFFFF * 0xFFFFFFFF = 1. -/
theorem test_mul : (nextOf (exec (.mul 3 0 1)
    { at_ .mul1 (.mul 3 0 1) with
      lMul1 := some (op (.mul 3 0 1)), prf := [⟨0xFFFFFFFF, true, true⟩, ⟨0xFFFFFFFF, true, true⟩] })).map
      (fun t => t.lMul2.map (fun m => m.prod)) = some (some 1) := by decide

/-- R192: MUL3 writes the product and leaves Z. -/
theorem test_mul_writes : resultZ (exec (.mul 3 0 1)
    { at_ .mul3 (.mul 3 0 1) with lMul3 := some ⟨op (.mul 3 0 1), 0⟩, z := false }) = some (0, false) := by decide

/-- What BRU2 leaves: pc, redirect, branch_pending, and whether the queue and front end are empty. -/
def resolution (r : Result) : Option (Word × Bool × Bool × Bool) :=
  (nextOf r).map (fun t => (t.pc, t.redirect, t.branchPending, t.iq.all (fun e => e.isNone) && t.lf.isNone && t.ld.isNone))

/-- `small` at BRU2 with `i` and target 4012 in L.BRU2, an instruction in L.F, and Z = `z`. -/
def atBru2 (i : Instr) (z : Bool) : State :=
  { at_ .bru2 i with
    lBru2 := some ⟨op i, 4012, 0⟩, z := z, branchPending := true, pc := 4008, lf := some ⟨4008, .nop⟩
    iq := [some (op .nop), none] }

/-- R204: JUMP is always taken. -/
theorem test_jump : resolution (exec (.jump 0 0) (atBru2 (.jump 0 0) false)) = some (4012, true, false, true) := by decide

/-- R204: with the source 12, JUMP's target is 12 + 4008 = 4020. -/
theorem test_jump_target : (nextOf (exec (.jump 0 4008)
    { at_ .bru1 (.jump 0 4008) with lBru1 := some (op (.jump 0 4008)) })).map
      (fun t => t.lBru2.map (fun b => (b.target, b.link))) = some (some (4020, 0)) := by decide

/-- R205: JAL at 4004 links 4008. -/
theorem test_jal_link : (nextOf (exec (.jal 3 0 4004)
    { at_ .bru1 (.jal 3 0 4004) with lBru1 := some (op (.jal 3 0 4004)) })).map
      (fun t => t.lBru2.map (fun b => (b.target, b.link))) = some (some (4016, 4008)) := by decide

/-- R245: at commit JAL retires the link into rd and resets the ROB to the target. -/
theorem test_jal_commit : (nextOf (exec (.jal 3 0 0) (at_ .commit (.jal 3 0 0)))).map
    (fun t => (t.archReg 3, t.pc, t.count, t.redirect)) = some (some 7, 4016, 0, true) := by decide

/-- R206: BZ at 4004 with immediate 8 goes to 4012. -/
theorem test_bz_target : (nextOf (exec (.bz 8) { at_ .bru1 (.bz 8) with lBru1 := some (op (.bz 8)) })).map
    (fun t => t.lBru2.map (fun b => b.target)) = some (some 4012) := by decide

/-- R206: taken with Z = 1, not taken with Z = 0. -/
theorem test_bz : resolution (exec (.bz 8) (atBru2 (.bz 8) true)) = some (4012, true, false, true) ∧
    resolution (exec (.bz 8) (atBru2 (.bz 8) false)) = some (4008, true, false, false) := by decide

/-- R207: BNZ at 4004 with immediate -8 goes to 3996. -/
theorem test_bnz_target : (nextOf (exec (.bnz (wrap 32 (-8))) { at_ .bru1 (.bnz (wrap 32 (-8))) with lBru1 := some (op (.bnz (wrap 32 (-8)))) })).map
    (fun t => t.lBru2.map (fun b => b.target)) = some (some 3996) := by decide

/-- R207: taken with Z = 0, not taken with Z = 1. -/
theorem test_bnz : resolution (exec (.bnz 8) (atBru2 (.bnz 8) false)) = some (4012, true, false, true) ∧
    resolution (exec (.bnz 8) (atBru2 (.bnz 8) true)) = some (4008, true, false, false) := by decide

/-- The effective address and data that MEM1 leaves, for L_MEM = 2. -/
def address (r : Result) : Option (Option (Word × Word)) := (nextOf r).map (fun t => t.lAcc.map (fun m => (m.ea, m.data)))

/-- `small` at MEM1 with `i` in L.MEM1. -/
def atMem1 (i : Instr) : State := { at_ .mem1 i with lMem1 := some (op i) }

/-- `small` at the access stage with `i` and `ea` in the access latch, and 77 in cell 104 and 11 in cell 4095. -/
def atAccess (i : Instr) (ea : Word) : State :=
  { at_ .access i with lAcc := some ⟨op i, ea, 5⟩, dmem := [(104, 77), (4095, 11)] }

/-- R224: the base 12 plus 4. -/
theorem test_load_address : address (exec (.load 3 0 4) (atMem1 (.load 3 0 4))) = some (some (16, 0)) := by decide

/-- R222: the cell is read; outside the data memory the range fault is recorded. -/
theorem test_load : resultZ (exec (.load 3 0 4) (atAccess (.load 3 0 4) 104)) = some (77, false) ∧
    (nextOf (exec (.load 3 0 4) (atAccess (.load 3 0 4) 4096))).map (fun t => t.fault) =
      some (some (.dmemRange 4096)) := by decide

/-- R226: base 12 plus index 10, not scaled. -/
theorem test_ldr_address : address (exec (.ldr 3 0 1) (atMem1 (.ldr 3 0 1))) = some (some (22, 0)) := by decide

/-- R222: the last cell is 4095; an address of -1 faults. -/
theorem test_ldr : resultZ (exec (.ldr 3 0 1) (atAccess (.ldr 3 0 1) 4095)) = some (11, false) ∧
    (nextOf (exec (.ldr 3 0 1) (atAccess (.ldr 3 0 1) (wrap 32 (-1))))).map (fun t => t.fault) =
      some (some (.dmemRange (wrap 32 (-1)))) := by decide

/-- R225: the base is the second source, the data the first. -/
theorem test_store_address : address (exec (.store 0 1 (wrap 32 (-4))) (atMem1 (.store 0 1 (wrap 32 (-4))))) = some (some (6, 12)) := by decide

/-- R241: the staged value goes to the cell at commit, and to no other. -/
theorem test_store_commit : (nextOf (exec (.store 0 1 0)
    { at_ .commit (.store 0 1 0) with rob := [some { entry (.store 0 1 0) with ea := 104 }] })).map
    (fun t => (Mem.read t.dmem 104, Mem.read t.dmem 103, t.count)) = some (7, 0, 0) := by decide

/-- R227: base 10 plus index 100, data 12. -/
theorem test_str_address : address (exec (.str 0 1 2) (atMem1 (.str 0 1 2))) = some (some (110, 12)) := by decide

/-- R241: a store outside the data memory faults at commit, with the entry and memory unchanged. -/
theorem test_str_commit_fault : (nextOf (exec (.str 0 1 2)
    { at_ .commit (.str 0 1 2) with rob := [some { entry (.str 0 1 2) with ea := 4096 }] })).map
    (fun t => (t.fault, t.dmem, t.count)) = some (some (.dmemRange 4096), [], 1) := by decide

/-- R119, R247: NOP is valid at dispatch and pops at commit. -/
theorem test_nop : (nextOf (exec .nop (decoded .nop))).map (fun t => ((t.robAt 0).map (fun e => e.resultValid), t.iq)) =
      some (some true, [none, none]) ∧
    (nextOf (exec .nop (at_ .commit .nop))).map (fun t => (t.count, t.halted)) = some (0, false) := by decide

/-- R118, R248: HALT is valid at dispatch and completes the run at commit. -/
theorem test_halt : (nextOf (exec .halt (decoded .halt))).map (fun t => (t.robAt 0).map (fun e => e.resultValid)) =
      some (some true) ∧
    (nextOf (exec .halt (at_ .commit .halt))).map (fun t => (t.count, t.halted, t.haltRetired)) = some (0, true, true) := by
  decide

/-- R103, R271: a HALT retires, and an ADD with an unmapped source is dispatched in the same cycle: the machine
is faulted and not halted, and the bit of the HALT stays (R35). -/
theorem test_halt_then_fault : (nextOf (step { at_ .dispatch .halt with ld := some ⟨4004, .add 3 3 3⟩ })).map
    (fun t => (t.status, t.completed, t.halted, t.haltRetired)) =
      some (.faulted (.unmappedSource 4004 3), false, true, true) := by decide

/-- R221, with L_MEM = 4: L.MEM3 goes to the access latch, L.MEM2 to L.MEM3. -/
theorem test_pass : (fun t : State => (t.lAcc, t.memPass)) (passStage { small with
      memPass := [some ⟨op (.load 3 0 4), 16, 0⟩, some ⟨op (.load 3 1 4), 14, 0⟩] }) =
    (some ⟨op (.load 3 1 4), 14, 0⟩, [none, some ⟨op (.load 3 0 4), 16, 0⟩]) := by decide

/-! ### Witnesses: for each statement with hypotheses, a state and operands that meet them -/

theorem witness_DecodeOfEncode : 5 ≤ 16 ∧ (Instr.addl 4 4 255).wf 5 8 = true ∧ (Instr.str 15 0 15).wf 16 32 = true ∧ (Instr.addl 15 15 (wrap 32 (-1))).wf 16 32 = true := by decide

/-- One pair of records for each clause: they differ in every field the format does not use. -/
theorem witness_DecodeIgnoresUnusedFields :
    (∃ r q : Record, r ≠ q ∧ r.opcode = q.opcode ∧ r.opcode.toNat ∈ [0, 1, 4, 5, 6, 7, 8, 12] ∧
      r.rd = q.rd ∧ r.rs1 = q.rs1 ∧ r.rs2 = q.rs2) ∧
    (∃ r q : Record, r ≠ q ∧ r.opcode = q.opcode ∧ r.opcode.toNat ∈ [2, 3, 10, 15] ∧
      r.rd = q.rd ∧ r.rs1 = q.rs1 ∧ r.imm = q.imm) ∧
    (∃ r q : Record, r ≠ q ∧ r.opcode = q.opcode ∧ r.opcode.toNat = 9 ∧ r.rd = q.rd ∧ r.imm = q.imm) ∧
    (∃ r q : Record, r ≠ q ∧ r.opcode = q.opcode ∧ r.opcode.toNat = 11 ∧
      r.rs1 = q.rs1 ∧ r.rs2 = q.rs2 ∧ r.imm = q.imm) ∧
    (∃ r q : Record, r ≠ q ∧ r.opcode = q.opcode ∧ r.opcode.toNat = 13 ∧
      r.rs1 = q.rs1 ∧ r.rs2 = q.rs2 ∧ r.rs3 = q.rs3) ∧
    (∃ r q : Record, r ≠ q ∧ r.opcode = q.opcode ∧ r.opcode.toNat = 14 ∧ r.rs1 = q.rs1 ∧ r.imm = q.imm) ∧
    (∃ r q : Record, r ≠ q ∧ r.opcode = q.opcode ∧ r.opcode.toNat ∈ [16, 17] ∧ r.imm = q.imm) ∧
    (∃ r q : Record, r ≠ q ∧ r.opcode = q.opcode ∧ r.opcode.toNat ∈ [18, 19]) :=
  ⟨⟨⟨12, some 1, some 2, some 3, none, 0⟩, ⟨12, some 1, some 2, some 3, some 99, 4⟩, by decide⟩,
   ⟨⟨15, some 1, some 2, none, none, 5⟩, ⟨15, some 1, some 2, some 99, some 99, 5⟩, by decide⟩,
   ⟨⟨9, some 1, none, none, none, 5⟩, ⟨9, some 1, some 99, some 99, some 99, 5⟩, by decide⟩,
   ⟨⟨11, none, some 1, some 2, none, 5⟩, ⟨11, some 99, some 1, some 2, some 99, 5⟩, by decide⟩,
   ⟨⟨13, none, some 1, some 2, some 3, 0⟩, ⟨13, some 99, some 1, some 2, some 3, 7⟩, by decide⟩,
   ⟨⟨14, none, some 1, none, none, 5⟩, ⟨14, some 99, some 1, some 99, some 99, 5⟩, by decide⟩,
   ⟨⟨17, none, none, none, none, 5⟩, ⟨17, some 99, some 99, some 99, some 99, 5⟩, by decide⟩,
   ⟨⟨19, none, none, none, none, 0⟩, ⟨19, some 99, some 99, some 99, some 99, 7⟩, by decide⟩⟩

/-- The opcode 20, and for each role a record whose field is 16 = N_ARCH or absent. -/
theorem witness_IllFormedRecordsAreRefused :
    20 ≤ (20 : BitVec 5).toNat ∧
    (∀ v, (⟨9, some 16, none, none, none, 0⟩ : Record).rd = some v → 16 ≤ v) ∧
    (∀ v, (⟨14, none, some 16, none, none, 0⟩ : Record).rs1 = some v → 16 ≤ v) ∧
    (∀ v, (⟨0, some 1, some 2, none, none, 0⟩ : Record).rs2 = some v → 16 ≤ v) ∧
    (∀ v, (⟨13, none, some 1, some 2, some 16, 0⟩ : Record).rs3 = some v → 16 ≤ v) ∧
    2 ^ 8 ≤ (⟨16, none, none, none, none, 256⟩ : Record).imm := by decide

theorem witness_DecodedInstructionIsWellFormed :
    decode 16 32 ⟨13, none, some 15, some 0, some 15, 0⟩ = .ok (.str 15 0 15) := by decide

theorem witness_PreloadedRegisterHoldsItsValue : 15 < State.reset.rrat.length ∧ 15 < State.reset.srat.length ∧
    15 < State.reset.prf.length ∧ 14 ≠ 15 ∧ State.reset.rrat[14]? ≠ some (some 15) := by decide

theorem small_running : small.Running := ⟨rfl, rfl, rfl⟩

theorem small_idle : small.BackEndIdle :=
  ⟨rfl, by decide, rfl, rfl, rfl, rfl, rfl, rfl, rfl, by decide, rfl⟩

theorem decoded_running (i : Instr) : (decoded i).Running := ⟨rfl, rfl, rfl⟩

theorem decoded_idle (i : Instr) : (decoded i).BackEndIdle :=
  ⟨rfl, small_idle.iq, rfl, rfl, rfl, rfl, rfl, rfl, rfl, small_idle.memPass, rfl⟩

theorem witness_QuietStepRunsDecodedInstruction :
    (decoded (.add 3 0 1)).Running ∧ (decoded (.add 3 0 1)).BackEndIdle ∧
    (decoded (.add 3 0 1)).ld = some ⟨4004, .add 3 0 1⟩ ∧
    ∃ t, exec (.add 3 0 1) { decoded (.add 3 0 1) with redirect := false, haltRetired := false } = .next t :=
  ⟨decoded_running _, decoded_idle _, rfl, nextOf_some (by decide)⟩

theorem witness_StepRunsDecodedInstruction : ∃ s1 t, (decoded (.add 3 0 1)).Running ∧
    beforeIssue (decoded (.add 3 0 1)) = .next s1 ∧ s1.fault = none ∧
    (issueStage s1).ld = some ⟨4004, .add 3 0 1⟩ ∧ exec (.add 3 0 1) (issueStage s1) = .next t :=
  ⟨_, _, decoded_running _, rfl, rfl, rfl, rfl⟩

/-- Each latch full, and a valid head entry whose commit answers a next state. -/
theorem witness_StagesRunTheirInstruction :
    (atInt (.add 3 0 1) true).lInt = some (op (.add 3 0 1)) ∧
    (∃ s : State, ∃ u, s.lMul1 = some u) ∧ (∃ s : State, ∃ m, s.lMul3 = some m) ∧ (∃ s : State, ∃ u, s.lBru1 = some u) ∧
    (atBru2 (.bz 8) true).lBru2 = some ⟨op (.bz 8), 4012, 0⟩ ∧ (atMem1 (.load 3 0 4)).lMem1 = some (op (.load 3 0 4)) ∧
    (atAccess (.load 3 0 4) 104).lAcc = some ⟨op (.load 3 0 4), 104, 5⟩ ∧
    (at_ .dispatch (.add 3 0 1)).headEntry = some (entry (.add 3 0 1)) ∧ (entry (.add 3 0 1)).resultValid = true ∧
    ∃ t, settle (exec (.add 3 0 1) { at_ .dispatch (.add 3 0 1) with stage := .commit }) = .next t :=
  ⟨rfl, ⟨{ small with lMul1 := some (op (.mul 3 0 1)) }, op (.mul 3 0 1), rfl⟩,
    ⟨{ small with lMul3 := some ⟨op (.mul 3 0 1), 6⟩ }, ⟨op (.mul 3 0 1), 6⟩, rfl⟩,
    ⟨{ small with lBru1 := some (op (.bz 8)) }, op (.bz 8), rfl⟩, rfl, rfl, rfl, by decide, rfl, nextOf_some (by decide)⟩

/-- The bits of HALT, of MOVC R1,#5, and the eight bits that the table fixes of ADD. -/
theorem witness_PlacedInstructionRunsNext : decodeTableWord 8 0x13 = some .halt ∧
    decodeTableWord 64 (0x00029 + 2 ^ 32 * 5) = some (.movc 1 5) ∧ decodeTableWord 8 0 = some (.add 0 0 0) := by decide

theorem witness_HaltedOrFaultedTakesNoStep :
    ({ small with fault := some (.dmemRange 4096), halted := true } : State).fault = some (.dmemRange 4096) ∧
    ({ small with halted := true } : State).fault = none ∧ ({ small with halted := true } : State).halted = true ∧
    (small.fault = none ∧ small.halted = false) ∧
    (∃ t, step (decoded (.add 3 3 3)) = .next t ∧ t.fault.isSome = true) ∧
    ∃ t, exec .halt { at_ .commit .halt with halted := true } = .next t :=
  ⟨rfl, rfl, rfl, ⟨rfl, rfl⟩, ⟨_, rfl, rfl⟩, _, rfl⟩

/-- The last of STR's three sources unmapped (R3), and the first of ADD's. -/
theorem witness_UnmappedSourceFaults :
    ((decoded (.str 0 1 3)).stage = .dispatch ∧ (decoded (.str 0 1 3)).ld = some ⟨4004, .str 0 1 3⟩ ∧
      (Instr.str 0 1 3).srcs = [0, 1] ++ 3 :: [] ∧ (∀ q ∈ [0, 1], ∃ p, (decoded (.str 0 1 3)).srat[q]? = some (some p)) ∧
      (decoded (.str 0 1 3)).srat[3]? = some none) ∧
    (Instr.add 0 3 3).srcs = [] ++ 3 :: [3] ∧ (decoded (.add 0 3 3)).srat[3]? = some none :=
  ⟨⟨rfl, rfl, rfl, by simp only [List.mem_cons, List.not_mem_nil, or_false]; rintro q (rfl | rfl) <;> exact ⟨_, rfl⟩, rfl⟩,
    rfl, rfl⟩

/-- `decoded i` with a full ROB, with every physical slot busy, and with a full queue and L.MEM1 taken. -/
theorem witness_DispatchStallsWithoutResources :
    (Instr.load 3 2 4).srcs.map (fun r => (decoded (.load 3 2 4)).srat[r]?) = [2].map (fun p => some (some p)) ∧
    ({ decoded (.load 3 2 4) with count := 4 } : State).rob.length ≤ 4 ∧
    ((Instr.load 3 2 4).dst ≠ none ∧
      ∀ r ∈ ({ decoded (.load 3 2 4) with prf := [⟨0, true, true⟩, ⟨0, true, true⟩, ⟨0, true, true⟩] } : State).prf,
        r.busy = true) ∧
    ((Instr.load 3 2 4).cls ≠ none ∧
      (∀ e ∈ ({ decoded (.load 3 2 4) with
        iq := [some (op .nop), some (op .nop)], lMem1 := some (op .nop) } : State).iq, e ≠ none) ∧
      ¬ ((Instr.load 3 2 4).cls = some .mem ∧ (∀ p ∈ [2], (decoded (.load 3 2 4)).physHasResult p = true) ∧
        ({ decoded (.load 3 2 4) with
          iq := [some (op .nop), some (op .nop)], lMem1 := some (op .nop) } : State).lMem1 = none)) := by decide

/-- Sources mapped, ROB room, slot 3 the lowest free physical slot, queue slot 0 free: for ADD and for JAL. -/
theorem witness_ProducerDispatchCompletes : ∀ i ∈ [Instr.add 3 0 1, .jal 3 0 8],
    i.dst = some 3 ∧ i.cls ≠ some .mem ∧ (decoded i).stage = .dispatch ∧ (decoded i).ld = some ⟨4004, i⟩ ∧
    (∃ ps : List Nat, i.srcs.map (fun r => (decoded i).srat[r]?) = ps.map (fun p => some (some p))) ∧
    (decoded i).count < (decoded i).rob.length ∧ (decoded i).prf[3]? = some ⟨0, false, false⟩ ∧
    (∀ q, q < 3 → ∀ r, (decoded i).prf[q]? = some r → r.busy = true) ∧ (decoded i).iq[0]? = some none := by
  intro i hi
  simp only [List.mem_cons, List.not_mem_nil, or_false] at hi
  rcases hi with rfl | rfl
  · exact ⟨rfl, by decide, rfl, rfl, ⟨[0, 1], rfl⟩, by decide, rfl, by decide, rfl⟩
  · exact ⟨rfl, by decide, rfl, rfl, ⟨[0], rfl⟩, by decide, rfl, by decide, rfl⟩

/-- The bypass (source slot 2 has a result, L.MEM1 empty), and the queue (L.MEM1 taken). -/
theorem witness_LoadDispatchCompletes : ∀ i ∈ [Instr.load 3 2 4, .ldr 3 2 0],
    i.dst = some 3 ∧ i.cls = some .mem ∧ (decoded i).stage = .dispatch ∧ (decoded i).ld = some ⟨4004, i⟩ ∧
    (∃ ps : List Nat, i.srcs.map (fun r => (decoded i).srat[r]?) = ps.map (fun p => some (some p)) ∧
      (∀ p ∈ ps, (decoded i).physHasResult p = true) ∧ (decoded i).lMem1 = none ∧
      ¬ ((∀ p ∈ ps, State.physHasResult { decoded i with lMem1 := some (op .nop) } p = true) ∧
        State.lMem1 { decoded i with lMem1 := some (op .nop) } = none)) ∧
    (decoded i).count < (decoded i).rob.length ∧ (decoded i).prf[3]? = some ⟨0, false, false⟩ ∧
    (∀ q, q < 3 → ∀ r, (decoded i).prf[q]? = some r → r.busy = true) ∧ (decoded i).iq[0]? = some none := by
  intro i hi
  simp only [List.mem_cons, List.not_mem_nil, or_false] at hi
  rcases hi with rfl | rfl
  · exact ⟨rfl, rfl, rfl, rfl, ⟨[2], rfl, by decide, rfl, by decide⟩, by decide, rfl, by decide, rfl⟩
  · exact ⟨rfl, rfl, rfl, rfl, ⟨[2, 0], rfl, by decide, rfl, by decide⟩, by decide, rfl, by decide, rfl⟩

theorem witness_StoreDispatchCompletes : ∀ i ∈ [Instr.store 0 2 4, .str 0 2 1],
    i.dst = none ∧ i.cls = some .mem ∧ (decoded i).stage = .dispatch ∧ (decoded i).ld = some ⟨4004, i⟩ ∧
    (∃ ps : List Nat, i.srcs.map (fun r => (decoded i).srat[r]?) = ps.map (fun p => some (some p)) ∧
      (∀ p ∈ ps, (decoded i).physHasResult p = true) ∧ (decoded i).lMem1 = none ∧
      ¬ ((∀ p ∈ ps, State.physHasResult { decoded i with lMem1 := some (op .nop) } p = true) ∧
        State.lMem1 { decoded i with lMem1 := some (op .nop) } = none)) ∧
    (decoded i).count < (decoded i).rob.length ∧ (decoded i).iq[0]? = some none := by
  intro i hi
  simp only [List.mem_cons, List.not_mem_nil, or_false] at hi
  rcases hi with rfl | rfl
  · exact ⟨rfl, rfl, rfl, rfl, ⟨[0, 2], rfl, by decide, rfl, by decide⟩, by decide, rfl⟩
  · exact ⟨rfl, rfl, rfl, rfl, ⟨[0, 2, 1], rfl, by decide, rfl, by decide⟩, by decide, rfl⟩

/-- JUMP with its source mapped; BZ and BNZ; queue slot 1 the lowest free one. -/
theorem witness_JumpAndBranchDispatchCompletes : ∀ i ∈ [Instr.jump 0 8, .bz 8, .bnz 8],
    i.dst = none ∧ i.cls = some .branch ∧ (decoded i).stage = .dispatch ∧ (decoded i).ld = some ⟨4004, i⟩ ∧
    (∃ ps : List Nat, i.srcs.map (fun r => (decoded i).srat[r]?) = ps.map (fun p => some (some p))) ∧
    (decoded i).count < (decoded i).rob.length ∧ (State.iq { decoded i with iq := [some (op .nop), none] })[1]? = some none ∧
    (∀ j, j < 1 → (State.iq { decoded i with iq := [some (op .nop), none] })[j]? ≠ some none) := by
  intro i hi
  simp only [List.mem_cons, List.not_mem_nil, or_false] at hi
  rcases hi with rfl | rfl | rfl
  · exact ⟨rfl, rfl, rfl, rfl, ⟨[0], rfl⟩, by decide, rfl, by decide⟩
  · exact ⟨rfl, rfl, rfl, rfl, ⟨[], rfl⟩, by decide, rfl, by decide⟩
  · exact ⟨rfl, rfl, rfl, rfl, ⟨[], rfl⟩, by decide, rfl, by decide⟩

theorem witness_NopAndHaltDispatchCompletes : ∀ i ∈ [Instr.nop, .halt],
    (decoded i).stage = .dispatch ∧ (decoded i).ld = some ⟨4004, i⟩ ∧ (decoded i).count < (decoded i).rob.length := by
  decide

/-- The hypotheses of the three clauses of an integer instruction's page: registers in range, the micro-op in L.INT with its
source slots in the file, and the entry alone at the head with a destination. -/
def IntWitness (i : Instr) : Prop :=
  i.wf 4 32 = true ∧
  ((atInt i true).stage = .int ∧ (atInt i true).lInt = some (op i) ∧ (op i).ps1 = some 0 ∧ (op i).ps2 = some 1 ∧
    (atInt i true).prf[0]? = some ⟨12, true, true⟩ ∧ (atInt i true).prf[1]? = some ⟨10, true, true⟩) ∧
  ((at_ .commit i).stage = .commit ∧ (at_ .commit i).count ≠ 0 ∧
    (at_ .commit i).rob[(at_ .commit i).head]? = some (some (entry i)) ∧ (entry i).pd = some 3)

theorem intWitness (i : Instr) (h : i.wf 4 32 = true) : IntWitness i :=
  ⟨h, ⟨rfl, rfl, rfl, rfl, rfl, rfl⟩, ⟨rfl, Nat.one_ne_zero, rfl, rfl⟩⟩

theorem witness_AddMeaning : IntWitness (.add 3 0 3) := intWitness _ (by decide)

theorem witness_SubMeaning : IntWitness (.sub 3 0 3) := intWitness _ (by decide)

theorem witness_AddlMeaning : IntWitness (.addl 3 3 (wrap 32 (-1))) := intWitness _ (by decide)

theorem witness_SublMeaning : IntWitness (.subl 3 3 (wrap 32 (-1))) := intWitness _ (by decide)

theorem witness_AndMeaning : IntWitness (.and 3 0 3) := intWitness _ (by decide)

theorem witness_OrMeaning : IntWitness (.or 3 0 3) := intWitness _ (by decide)

theorem witness_XorMeaning : IntWitness (.xor 3 0 3) := intWitness _ (by decide)

theorem witness_CmpMeaning : IntWitness (.cmp 3 0 3) := intWitness _ (by decide)

theorem witness_MovcMeaning : IntWitness (.movc 3 (wrap 32 (-1))) := intWitness _ (by decide)

/-- A head entry at commit, with a physical destination. -/
theorem witness_commit (i : Instr) : (at_ .commit i).stage = .commit ∧ (at_ .commit i).count ≠ 0 ∧
    (at_ .commit i).rob[(at_ .commit i).head]? = some (some (entry i)) ∧ (entry i).pd = some 3 :=
  ⟨rfl, Nat.one_ne_zero, rfl, rfl⟩

theorem witness_MulMeaning : (Instr.mul 3 0 3).wf 4 32 = true ∧
    (∃ s : State, s.stage = .mul1 ∧ s.lMul1 = some (op (.mul 3 0 3)) ∧ s.prf[0]? = some ⟨12, true, true⟩ ∧
      s.prf[1]? = some ⟨10, true, true⟩) ∧
    (∃ s : State, s.stage = .mul3 ∧ s.lMul3 = some ⟨op (.mul 3 0 3), 120⟩) ∧ small.lMul1 = none ∧ small.lMul2 = none ∧ small.lMul3 = none ∧
    (at_ .commit (.mul 3 0 3)).rob[0]? = some (some (entry (.mul 3 0 3))) :=
  ⟨by decide, ⟨{ at_ .mul1 (.mul 3 0 3) with lMul1 := some (op (.mul 3 0 3)) }, rfl, rfl, rfl, rfl⟩,
    ⟨{ at_ .mul3 (.mul 3 0 3) with lMul3 := some ⟨op (.mul 3 0 3), 120⟩ }, rfl, rfl⟩, rfl, rfl, rfl, rfl⟩

/-- The hypotheses of a control-flow instruction's page: BRU1 with its ROB entry and its source slot, BRU2 with either value of
Z, and commit with a destination. -/
def BranchWitness (i : Instr) : Prop :=
  i.wf 4 32 = true ∧
  (∃ s : State, s.stage = .bru1 ∧ s.lBru1 = some (op i) ∧ s.rob[(op i).rob]? = some (some (entry i)) ∧
    (op i).ps1 = some 0 ∧ s.prf[0]? = some ⟨12, true, true⟩) ∧
  (∀ z, (atBru2 i z).stage = .bru2 ∧ (atBru2 i z).lBru2 = some ⟨op i, 4012, 0⟩ ∧ (atBru2 i z).z = z) ∧
  ((at_ .commit i).stage = .commit ∧ (at_ .commit i).count ≠ 0 ∧
    (at_ .commit i).rob[(at_ .commit i).head]? = some (some (entry i)) ∧ (entry i).pd = some 3)

theorem branchWitness (i : Instr) (h : i.wf 4 32 = true) : BranchWitness i :=
  ⟨h, ⟨{ at_ .bru1 i with lBru1 := some (op i) }, rfl, rfl, rfl, rfl, rfl⟩, fun _ => ⟨rfl, rfl, rfl⟩, witness_commit i⟩

theorem witness_JumpMeaning : BranchWitness (.jump 3 8) := branchWitness _ (by decide)

theorem witness_JalMeaning : BranchWitness (.jal 3 3 8) := branchWitness _ (by decide)

theorem witness_BzMeaning : BranchWitness (.bz 8) := branchWitness _ (by decide)

theorem witness_BnzMeaning : BranchWitness (.bnz (wrap 32 (-8))) := branchWitness _ (by decide)

/-- The hypotheses of a memory instruction's page: MEM1 with its sources and either form of the next latch; the access latch and
the head entry with the addresses 4095 (in range), 4096 and -1 (out of range). -/
def MemWitness (i : Instr) : Prop :=
  i.wf 4 32 = true ∧
  ((atMem1 i).stage = .mem1 ∧ (atMem1 i).lMem1 = some (op i) ∧ (atMem1 i).prf[0]? = some ⟨12, true, true⟩ ∧
    (atMem1 i).prf[1]? = some ⟨10, true, true⟩ ∧ (atMem1 i).prf[2]? = some ⟨100, true, true⟩ ∧ (atMem1 i).memPass = [] ∧
    State.memPass { atMem1 i with memPass := [none] } = none :: [] ∧
    State.memPass { atMem1 i with memPass := [none, some ⟨op i, 16, 0⟩] } = [none] ++ [some ⟨op i, 16, 0⟩]) ∧
  (∀ ea, (atAccess i ea).stage = .access ∧ (atAccess i ea).lAcc = some ⟨op i, ea, 5⟩ ∧ (atAccess i ea).dmemSize = 4096) ∧
  (∀ ea, ∃ s : State, s.stage = .commit ∧ s.count ≠ 0 ∧ s.rob[s.head]? = some (some { entry i with ea := ea }) ∧
    s.dmemSize = 4096 ∧ Mem.wf s.dmem) ∧
  (entry i).pd = some 3 ∧
  (0 ≤ signed 32 4095 ∧ signed 32 4095 < (4096 : Nat)) ∧ ¬ (0 ≤ signed 32 4096 ∧ signed 32 4096 < (4096 : Nat)) ∧
  ¬ (0 ≤ signed 32 0xFFFFFFFF ∧ signed 32 0xFFFFFFFF < (4096 : Nat))

theorem memWitness (i : Instr) (h : i.wf 4 32 = true) : MemWitness i :=
  ⟨h, ⟨rfl, rfl, rfl, rfl, rfl, rfl, rfl, rfl⟩, fun _ => ⟨rfl, rfl, rfl⟩,
    fun ea => ⟨{ at_ .commit i with rob := [some { entry i with ea := ea }], dmem := [(104, 77)] }, rfl,
      Nat.one_ne_zero, rfl, rfl, show Mem.wf [(104, 77)] by decide⟩, rfl, by decide, by decide, by decide⟩

theorem witness_LoadMeaning : MemWitness (.load 3 3 4) := memWitness _ (by decide)

theorem witness_StoreMeaning : MemWitness (.store 3 3 4) := memWitness _ (by decide)

theorem witness_LdrMeaning : MemWitness (.ldr 3 0 3) := memWitness _ (by decide)

theorem witness_StrMeaning : MemWitness (.str 3 0 3) := memWitness _ (by decide)

theorem witness_NopAndHaltCommit : ∀ i ∈ [Instr.nop, .halt], (at_ .commit i).stage = .commit ∧ (at_ .commit i).count ≠ 0 ∧
    (at_ .commit i).rob[(at_ .commit i).head]? = some (some (entry i)) := by decide

/-- R0 is retired in slot 0, other than the slot 3 retired into it; slot 1 is neither; R3 is unmapped. -/
theorem witness_RetireEffect : small.prf[3]? = some ⟨0, false, false⟩ ∧ small.rrat[0]? = some (some 0) ∧ 0 ≠ 3 ∧
    small.prf[0]? = some ⟨12, true, true⟩ ∧ 1 ≠ 3 ∧ small.rrat[0]? ≠ some (some 1) ∧ 0 < small.rrat.length ∧ 1 ≠ 0 := by
  decide

/-- Slot 3 is the destination of the entry in flight, slot 1 of none. -/
theorem witness_PopAndRobResetEffect : (at_ .dispatch (.add 3 0 1)).prf[3]? = some ⟨0, false, true⟩ ∧
    (∃ e ∈ (at_ .dispatch (.add 3 0 1)).inFlight, e.pd = some 3) ∧
    ¬ ∃ e ∈ (at_ .dispatch (.add 3 0 1)).inFlight, e.pd = some 1 := by decide

/-- `small` with `i` ready in queue slot 1 and a micro-op that waits for the free slot 4 in slot 0. -/
def queued (i : Instr) : State := { small with iq := [some { op i with ps1 := some 4 }, some (op i)] }

/-- Each class selects slot 1, and selects nothing where the ready micro-op is not there. -/
theorem witness_IssueStageEffect :
    (queued (.add 3 0 1)).select .int = some 1 ∧ (queued (.mul 3 0 1)).select .mul = some 1 ∧
    (queued (.bz 8)).select .branch = some 1 ∧ (queued (.load 3 0 4)).select .mem = some 1 ∧
    (queued (.add 3 0 1)).iq[1]? = some (some (op (.add 3 0 1))) ∧ (op (.add 3 0 1)).insn.cls = some .int ∧
    (queued (.bz 8)).select .int = none ∧ (queued (.bz 8)).select .mul = none ∧ (queued (.add 3 0 1)).select .branch = none ∧
    (queued (.add 3 0 1)).select .mem = none ∧ small.iq[0]? = some none := by decide

/-- Redirected; held with L.D empty and full; and an address before the store, in it, past it and off a multiple of 4. -/
theorem witness_FetchStageEffect :
    State.redirect { small with redirect := true } = true ∧ State.branchPending { small with branchPending := true } = true ∧
    (State.lf { small with lf := some ⟨4000, .nop⟩ } = some ⟨4000, .nop⟩ ∧
      State.ld { small with lf := some ⟨4000, .nop⟩ } = none ∧ (decoded .nop).ld = some ⟨4004, .nop⟩) ∧
    (small.redirect = false ∧ small.branchPending = false ∧ small.lf = none ∧ small.ifetch small.pc = none) ∧
    (State.ifetch { small with imem := [.halt] } 4000 = some .halt ∧ State.ifetch { small with imem := [.halt] } 4004 = none) ∧
    0 < small.insnBytes ∧ 4000 = small.basePc + small.insnBytes * 0 ∧ 3996 < small.basePc ∧ small.basePc ≤ 4002 ∧
    (4002 - small.basePc) % small.insnBytes ≠ 0 := by decide

/-! ### A machine in the middle of a run, which meets every invariant -/

/-- ADD R3,R0,R1 is in L.INT, STORE R0,R2,#4 in L.MEM1, and BZ #8 in the issue queue behind them; cell 104 holds 77. -/
def mid : State :=
  { small with
    prf := claimSlot small.prf 3
    srat := small.srat.set 3 (some 3)
    rob := [some { entry (.add 3 0 1) with resultValid := false },
      some { entry (.store 0 2 4) with pd := none, resultValid := false },
      some { entry (.bz 8) with pd := none, resultValid := false }, none]
    tail := 3, count := 3
    lInt := some (op (.add 3 0 1))
    lMem1 := some { op (.store 0 2 4) with pd := none, rob := 1 }
    iq := [none, some { op (.bz 8) with ps1 := none, ps2 := none, ps3 := none, pd := none, rob := 2 }]
    branchPending := true
    imem := [.nop, .halt], dmem := [(104, 77)] }

theorem mid_running : mid.Running := ⟨rfl, rfl, rfl⟩

theorem mid_units : mid.UnitsOk :=
  ⟨by decide, by decide, by decide, by decide, by decide, by decide, by decide, by intro m h; simp [mid, small,
    State.preloadReg, State.resetWith] at h, by decide⟩

theorem mid_rob : mid.RobOk := ⟨by decide, by decide, by decide, by decide⟩

theorem mid_rename : mid.RenameOk := ⟨.inl (by decide), by decide⟩

theorem mid_insns : mid.InsnsOk := by
  refine ⟨rfl, by decide, by decide, by decide, fun e he => ?_⟩
  have h : ∀ x ∈ mid.rob, x.all (fun e => e.insn.wf mid.rrat.length mid.xlen && (e.pd.isSome == e.insn.producer)) = true := by decide
  simpa using h (some e) he

theorem mid_free : mid.FreeListOk := by
  refine ⟨by decide, by decide, fun p r h => ?_⟩
  have h1 : ∀ q, q < 6 → ∀ x, mid.prf[q]? = some x → (x.busy = true ↔ q ∈ mid.owned) := by decide
  exact h1 p (List.getElem?_eq_some_iff.1 h).1 r h

theorem mid_branch : mid.BranchOk := ⟨by decide, by decide⟩

theorem mid_mem : mid.MemOk := ⟨by decide, by decide⟩

theorem mid_words : mid.WordsOk := by
  have hq : ∀ x ∈ mid.iq, x.all (fun u => decide (Instr.ImmOk mid.xlen u.insn)) = true := by decide
  have hr : ∀ x ∈ mid.rob, x.all (fun e => decide (isWord mid.xlen e.pc) && decide (Instr.ImmOk mid.xlen e.insn) &&
      decide (isWord mid.xlen e.result) && decide (isWord mid.xlen e.ea)) = true := by decide
  refine ⟨by decide, by decide, nofun, nofun, fun u hu => ?_, fun e he => ?_, by decide, by decide, nofun, nofun, nofun, nofun,
    nofun, by decide, nofun, nofun, by decide, by decide⟩
  · simpa using hq (some u) hu
  · have := hr (some e) he
    simp only [Option.all_some, Bool.and_eq_true, decide_eq_true_eq] at this
    exact ⟨this.1.1.1, this.1.1.2, this.1.2, this.2⟩

theorem mid_steps : ∃ t, step mid = .next t := nextOf_some (by decide)

/-- The head entry is not valid: the hypotheses of the statements about a cycle without a commit. -/
theorem witness_ArchitecturalStateOnlyByCommit : mid.stage = .dispatch ∧ (∃ t, step mid = .next t) ∧
    (small.count = 0 ∧ ∃ t, step small = .next t) ∧ ∃ e, mid.rob[mid.head]? = some (some e) ∧ e.resultValid = false :=
  ⟨rfl, mid_steps, ⟨rfl, nextOf_some (by decide)⟩, _, rfl, rfl⟩

/-- L.INT empty, and L.INT with an AND. -/
theorem witness_FlagWrittenOnlyBySetters : (small.lInt = none ∧ ∃ t, step small = .next t) ∧
    ∃ s : State, s.stage = .dispatch ∧ s.lInt = some (op (.and 3 0 1)) ∧ ∃ t, step s = .next t :=
  ⟨⟨rfl, nextOf_some (by decide)⟩, { at_ .dispatch (.and 3 0 1) with lInt := some (op (.and 3 0 1)) }, rfl, rfl,
    nextOf_some (by decide)⟩

/-- An unfinished STORE in the ROB, and a finished ADD. -/
theorem witness_MemoryWrittenOnlyByCommittedStores :
    (∀ e, some e ∈ mid.rob → e.resultValid = true → ∀ (a b c : Nat) (i : Word), e.insn ≠ .store a b i ∧ e.insn ≠ .str a b c) ∧
    ∃ t, step mid = .next t := by
  refine ⟨fun e he hv => ?_, mid_steps⟩
  have h : ∀ x ∈ mid.rob, x.all (fun e => !e.resultValid) = true := by decide
  have := h (some e) he
  simp [hv] at this

/-- `mid` meets the hypotheses of every statement that says what each step keeps. -/
theorem witness_invariants : mid.stage = .dispatch ∧ mid.srat.length = mid.rrat.length ∧ mid.Running ∧ mid.UnitsOk ∧
    mid.RobOk ∧ mid.RenameOk ∧ mid.InsnsOk ∧ mid.FreeListOk ∧ mid.BranchOk ∧ mid.MemOk ∧ mid.WordsOk ∧ (∃ t, step mid = .next t) ∧
    (small.RenameOk ∧ small.count = 0) ∧
    ∃ t, step (at_ .dispatch .halt) = .next t ∧ t.haltRetired = true ∧ t.fault = none :=
  ⟨rfl, rfl, mid_running, mid_units, mid_rob, mid_rename, mid_insns, mid_free, mid_branch, mid_mem, mid_words, mid_steps,
    ⟨⟨.inl rfl, by decide⟩, rfl⟩, _, rfl, rfl, rfl⟩

/-- A launch of an 8-bit machine with L_MEM = 5, a program, a register and a cell; and parameters that are refused. -/
theorem witness_LaunchMeetsTheInvariants :
    (∃ s, launch { xlen := 8, basePc := 100, lMem := 5, dmemSize := 16 }
      [⟨9, some 1, none, none, none, 255⟩, ⟨19, none, none, none, none, 0⟩] [(2, 7)] [(15, 9)] = .ok s) ∧
    ¬ ({ lMem := 1 } : Params).wf := ⟨⟨_, rfl⟩, by decide⟩

/-- A machine in which BZ, JUMP, JAL or BNZ is about to resolve as taken. -/
theorem witness_SquashIsAtomic : ∀ iz ∈ [(Instr.jump 0 0, false), (.jal 3 0 0, false), (.bz 8, true), (.bnz 8, false)],
    ∃ s s1 t, s.stage = .dispatch ∧ step s = .next t ∧
      andThen (commitStage (startCycle s)) memoryStages = .next s1 ∧ s1.fault = none ∧
      s1.lBru2 = some ⟨op iz.1, 4012, 0⟩ ∧ s1.z = iz.2 := by
  intro iz h
  simp only [List.mem_cons, List.not_mem_nil, or_false] at h
  rcases h with rfl | rfl | rfl | rfl
  all_goals exact ⟨{ atBru2 _ _ with stage := .dispatch, count := 0 }, _, _, rfl, rfl, rfl, rfl, rfl, rfl⟩

/-- An unfinished ADD at the head whose micro-op is nowhere. -/
theorem witness_StrandedHeadBlocksCommitForEver : ∃ s t, s.stage = .dispatch ∧ s.RobOk ∧ s.Stranded ∧ step s = .next t := by
  refine ⟨{ at_ .dispatch (.add 3 0 1) with rob := [some { entry (.add 3 0 1) with resultValid := false }, none, none, none] },
    _, rfl, ⟨by decide, by decide, by decide, by decide⟩, ⟨⟨_, rfl, rfl⟩, ?_⟩, rfl⟩
  exact ⟨by intro u h; simp [at_, small, State.preloadReg, State.resetWith] at h, by decide, by decide, by decide, by decide,
    by decide, by decide, by decide, by intro u h; simp [at_, small, State.preloadReg, State.resetWith] at h, by decide⟩

/-- ADD R3,R0,R1 alone in L.D, with both sources holding values. -/
theorem witness_LoneAddCommitsInFourCycles :
    let s := decoded (.add 3 0 1)
    s.Running ∧ s.BackEndIdle ∧ s.RobOk ∧ s.RenameOk ∧ s.InsnsOk ∧ s.FreeListOk ∧
    s.ld = some ⟨4004, .add 3 0 1⟩ ∧ s.lf = none ∧ s.ifetch s.pc = none ∧ s.iq ≠ [] ∧ (∃ r ∈ s.prf, r.busy = false) ∧
    s.archReg 0 = some 12 ∧ s.archReg 1 = some 10 ∧ (∀ p, s.retired 0 = some p → s.physHasResult p = true) ∧
    (∀ p, s.retired 1 = some p → s.physHasResult p = true) := by
  refine ⟨decoded_running _, decoded_idle _, ⟨by decide, by decide, by decide, by decide⟩, ⟨.inl rfl, by decide⟩,
    ⟨rfl, by decide, by decide, by decide, fun e he => ?_⟩, ⟨by decide, by decide, fun p r h => ?_⟩, rfl, rfl, rfl, by decide,
    ⟨_, List.mem_of_getElem? (i := 3) rfl, rfl⟩, rfl, rfl, by decide, by decide⟩
  · simp [decoded, small, State.preloadReg, State.resetWith] at he
  · have h1 : ∀ q, q < 6 → ∀ x, (decoded (.add 3 0 1)).prf[q]? = some x →
        (x.busy = true ↔ q ∈ (decoded (.add 3 0 1)).owned) := by decide
    exact h1 p (List.getElem?_eq_some_iff.1 h).1 r h

end Sys2Proof.Tests
end

/-! PROOF. Every stage keeps the words (O57): what each named update of the state does to `State.WordsOk`, then the cycle. -/

namespace Sys2Proof.Machine

/-! ### Where the members of an updated table come from -/

/-- A property that a table's members have, and the rewriting of one keeps, holds of the table rewritten at one place. -/
theorem forall_mem_modify {α : Type} {p : α → Prop} {l : List α} {i : Nat} {f : α → α} (hl : ∀ x ∈ l, p x)
    (hf : ∀ x, p x → p (f x)) : ∀ x ∈ l.modify i f, p x := by
  intro x hx
  obtain ⟨j, hj⟩ := List.mem_iff_getElem?.1 hx
  rw [List.getElem?_modify, Option.map_eq_map, Option.map_eq_some_iff] at hj
  obtain ⟨y, hy, rfl⟩ := hj
  have hp : p y := hl y (List.mem_of_getElem? hy)
  split
  · exact hf y hp
  · exact hp

/-- An occupied slot of a table with one slot set was there before or is the one put in. -/
theorem mem_of_mem_set {α : Type} {l : List (Option α)} {k : Nat} {o : Option α} {x : α} (h : some x ∈ l.set k o) :
    some x ∈ l ∨ o = some x :=
  (List.mem_or_eq_of_mem_set h).imp_right Eq.symm

theorem not_mem_map_none {α β : Type} (l : List α) (x : β) : some x ∉ l.map (fun _ => (none : Option β)) := by
  simp

/-- A latch that is set to `x` holds what `x` is. -/
theorem forall_of_some {α : Type} {p : α → Prop} {x : α} (h : p x) : ∀ y, some x = some y → p y :=
  fun _ hy => Option.some.inj hy ▸ h

/-- An empty latch holds nothing. -/
theorem forall_of_none {α : Type} {p : α → Prop} : ∀ y, none = some y → p y := nofun

theorem State.mem_rob_of_robAt {s : State} {i : Nat} {e : RobEntry} (h : s.robAt i = some e) : some e ∈ s.rob :=
  List.mem_of_getElem? (Option.join_eq_some_iff.1 h)

theorem State.mem_rob_of_headEntry {s : State} {e : RobEntry} (h : s.headEntry = some e) : some e ∈ s.rob :=
  State.mem_rob_of_robAt (State.headEntry_some h).2

theorem State.mem_imem_of_ifetch {s : State} {a : Word} {i : Instr} (h : s.ifetch a = some i) : i ∈ s.imem := by
  unfold State.ifetch at h
  split at h
  · exact List.mem_of_getElem? h
  · cases h

/-! ### The width -/

@[simp] theorem State.retireHead_xlen (s : State) (rd : Nat) (e : RobEntry) : (s.retireHead rd e).xlen = s.xlen := by
  unfold State.retireHead; split <;> rfl

@[simp] theorem State.enqueue_xlen (s : State) (i : Instr) (ps : List Nat) (u : IqEntry) :
    (s.enqueue i ps u).xlen = s.xlen := by
  unfold State.enqueue
  repeat' split
  all_goals rfl

@[simp] theorem State.claimDest_xlen (s : State) (i : Instr) : (s.claimDest i).xlen = s.xlen := by
  unfold State.claimDest; split <;> rfl

theorem nextPc_isWord (s : State) (a : Word) : isWord s.xlen (s.nextPc a) := wrap_isWord _ _

/-! ### The physical registers -/

theorem freeSlot_values {w : Nat} {prf : List PhysReg} (h : ∀ r ∈ prf, isWord w r.value) (o : Option Nat) :
    ∀ r ∈ freeSlot prf o, isWord w r.value := by
  cases o with
  | none => exact h
  | some p => exact forall_mem_modify h fun _ hr => hr

theorem freeDests_values {w : Nat} (es : List RobEntry) : ∀ {prf : List PhysReg},
    (∀ r ∈ prf, isWord w r.value) → ∀ r ∈ freeDests prf es, isWord w r.value := by
  induction es with
  | nil => exact fun h => h
  | cons e es ih => exact fun h => ih (freeSlot_values h e.pd)

namespace State.WordsOk

variable {s : State} (h : s.WordsOk)
include h

/-! ### The named updates of the state -/

theorem raiseFault (f : FaultRecord) : (s.raiseFault f).WordsOk := { h with }

theorem robUpdate (i : Nat) {f : RobEntry → RobEntry} (hf : ∀ e, e.Words s.xlen → (f e).Words s.xlen) :
    (s.robUpdate i f).WordsOk :=
  { h with
    rob := fun e he => forall_mem_modify (p := fun o => ∀ e, o = some e → e.Words s.xlen)
      (fun o ho e he => h.rob e (he ▸ ho))
      (fun o ho e he => by
        obtain ⟨e', rfl, rfl⟩ := Option.map_eq_some_iff.1 he
        exact hf e' (ho e' rfl)) (some e) he e rfl }

/-- A unit that writes a word into the ROB. -/
theorem finish (i : Nat) {r : Word} (hr : isWord s.xlen r) : (s.robUpdate i (fun e => e.finish r)).WordsOk :=
  h.robUpdate i fun _ he => { he with result := hr }

/-- A store that puts its address and data into the ROB. -/
theorem stageStore (i : Nat) {m : MemOp} (hm : m.Words s.xlen) :
    (s.robUpdate i (fun e => e.stageStore m)).WordsOk :=
  h.robUpdate i fun _ he => { he with result := hm.data, ea := hm.ea }

theorem pop : s.pop.WordsOk :=
  { h with rob := fun e he => h.rob e ((mem_of_mem_set he).resolve_right nofun) }

theorem push {e : RobEntry} (he : e.Words s.xlen) : (s.push e).WordsOk :=
  { h with rob := fun x hx => (mem_of_mem_set hx).elim (h.rob x) (forall_of_some he x) }

theorem retireHead (rd : Nat) {e : RobEntry} (he : e.Words s.xlen) : (s.retireHead rd e).WordsOk := by
  unfold State.retireHead
  split
  · exact { h with prf := forall_mem_modify (freeSlot_values h.prf _) fun _ _ => he.result }
  · exact h

theorem memWrite (ea : Word) {v : Word} (hv : isWord s.xlen v) : (s.memWrite ea v).WordsOk :=
  { h with dmem := fun c hc => (Mem.mem_write hc).elim (fun hc => hc ▸ hv) (h.dmem c) }

theorem robReset {a : Word} (ha : isWord s.xlen a) : (s.robReset a).WordsOk :=
  { h with
    prf := freeDests_values _ h.prf
    pc := ha
    lf := forall_of_none, ld := forall_of_none
    iq := fun u hu => (not_mem_map_none _ u hu).elim
    rob := fun e he => (not_mem_map_none _ e he).elim
    int := forall_of_none, mul1 := forall_of_none, mul2 := forall_of_none, mul3 := forall_of_none
    bru1 := forall_of_none, bru2 := forall_of_none, mem1 := forall_of_none
    pass := fun m hm => (not_mem_map_none _ m hm).elim
    acc := forall_of_none }

theorem squash {a : Word} (ha : isWord s.xlen a) : (s.squash a).WordsOk :=
  { h with pc := ha, lf := forall_of_none, ld := forall_of_none, iq := fun u hu => (not_mem_map_none _ u hu).elim }

/-! ### Commit -/

/-- What a commit retires, stores or jumps to is a field of the head entry. -/
theorem commitEffect {i : Instr} {e : RobEntry} {t : State} (he : e.Words s.xlen) (ht : CommitEffect i e s t) :
    t.WordsOk := by
  cases ht with
  | producer rd => exact (h.retireHead rd he).pop
  | store => exact (h.memWrite e.ea he.result).pop
  | storeFault => exact h.raiseFault _
  | plain => exact h.pop
  | reset => exact h.pop.robReset he.ea
  | jal rd => exact (h.retireHead rd he).pop.robReset (by simpa using he.ea)
  | halt => exact { h.pop with }

/-! ### The functional units -/

theorem intoMem2 {m : MemOp} (hm : m.Words s.xlen) : (s.intoMem2 m).WordsOk := by
  unfold State.intoMem2
  split
  · exact { h with acc := forall_of_some hm }
  · rename_i m' ms hp
    refine { h with pass := fun x hx => ?_ }
    rcases List.mem_cons.1 hx with hx | hx
    · exact forall_of_some hm x hx.symm
    · exact h.pass x (hp ▸ List.mem_cons_of_mem m' hx)

theorem passStage : (passStage s).WordsOk := by
  unfold Machine.passStage
  split
  · exact h
  · rename_i o ho
    refine { h with
      acc := fun m hm => h.pass m (hm ▸ List.mem_of_getLast? ho)
      pass := fun m hm => h.pass m ?_ }
    exact List.mem_of_mem_dropLast ((List.mem_cons.1 hm).resolve_left nofun)

/-- A taken branch redirects fetch to the target BRU1 computed; either outcome records target and link in the ROB. -/
theorem resolved {b : BruOp} (hb : b.Words s.xlen) (taken : Bool) : (resolved s b taken).WordsOk := by
  have hr : (s.robUpdate b.entry.rob (fun e => e.resolve b taken)).WordsOk :=
    h.robUpdate _ fun _ he => { he with result := hb.link, ea := hb.target }
  have ht : State.WordsOk { s.robUpdate b.entry.rob (fun e => e.resolve b taken) with lBru2 := none } :=
    { hr with bru2 := forall_of_none }
  cases taken with
  | false => exact { ht with }
  | true => exact { ht.squash hb.target with }

/-! ### Issue, dispatch and fetch -/

theorem place (c : FuClass) {u : IqEntry} (hu : Instr.ImmOk s.xlen u.insn) : (s.place c u).WordsOk := by
  cases c with
  | int => exact { h with int := forall_of_some hu }
  | mul => exact { h with mul1 := forall_of_some hu }
  | branch => exact { h with bru1 := forall_of_some hu }
  | mem =>
    have hr : (s.robUpdate u.rob (fun e => { e with memReady := true })).WordsOk :=
      h.robUpdate _ fun _ he => { he with }
    exact { hr with mem1 := forall_of_some hu }

theorem issueFrom (c : FuClass) (o : Option Nat) : (s.issueFrom c o).WordsOk := by
  unfold State.issueFrom
  split
  · exact h
  · split
    · exact h
    · rename_i k _ u hu
      have hi : State.WordsOk { s with iq := s.iq.set k none } :=
        { h with iq := fun v hv => h.iq v ((mem_of_mem_set hv).resolve_right nofun) }
      exact hi.place c (h.iq u (List.mem_of_getElem? (Option.join_eq_some_iff.1 hu)))

theorem issueStage : (issueStage s).WordsOk :=
  (((h.issueFrom _ _).issueFrom _ _).issueFrom _ _).issueFrom _ _

theorem enqueue (i : Instr) (ps : List Nat) {u : IqEntry} (hu : Instr.ImmOk s.xlen u.insn) :
    (s.enqueue i ps u).WordsOk := by
  unfold State.enqueue
  split
  · exact { h with mem1 := forall_of_some hu }
  · split
    · split
      · refine { h with iq := fun v hv => ?_ }
        rcases mem_of_mem_set hv with hv | hv
        · exact h.iq v hv
        · cases hv; exact hu
      · exact h
    · exact h

theorem claimDest (i : Instr) : (s.claimDest i).WordsOk := by
  unfold State.claimDest
  split
  · exact { h with prf := forall_mem_modify h.prf fun _ hr => hr }
  · exact h

theorem allocate {pc : Word} {i : Instr} (hpc : isWord s.xlen pc) (hi : Instr.ImmOk s.xlen i) (ps : List Nat) :
    (s.allocate pc i ps).WordsOk := by
  have he : (s.robEntryFor pc i ps).Words s.xlen := ⟨hpc, hi, zero_isWord _, zero_isWord _⟩
  have hc := (h.enqueue i ps (u := s.microOp i ps) hi).claimDest i
  have hp := hc.push (e := s.robEntryFor pc i ps) (by simpa using he)
  exact { hp with ld := forall_of_none }

theorem advanceFront : s.advanceFront.WordsOk := by
  unfold State.advanceFront
  split
  · exact { h with ld := h.lf, lf := forall_of_none }
  · exact h

theorem fetchStage : (fetchStage s).WordsOk := by
  unfold Machine.fetchStage
  split
  · exact h
  · split
    · exact h.advanceFront
    · split
      · exact h
      · rename_i i hi
        have hf : State.WordsOk { s with lf := some { pc := s.pc, insn := i }, pc := s.nextPc s.pc } :=
          { h with
            pc := nextPc_isWord s s.pc
            lf := forall_of_some ⟨h.pc, h.imem i (State.mem_imem_of_ifetch hi)⟩ }
        exact hf.advanceFront

theorem endCycle : (endCycle s).WordsOk := by
  unfold Machine.endCycle
  split
  · exact { h with }
  · exact h

end State.WordsOk

/-! ### The cycle -/

/-- Every stage keeps the words: a unit's result is a word by the law of its stage, and every other update moves words. -/
theorem wordsOk_preserved : Preserved State.WordsOk where
  start _ h := { h with }
  commit _ _ _ h he _ hc := h.commitEffect (h.rob _ (State.mem_rob_of_headEntry he)) hc
  target _ _ _ _ h hu _ ha hl :=
    have hi := h.bru1 _ hu
    { h with bru1 := forall_of_none, bru2 := forall_of_some ⟨hi, ha h hi, hl h hi⟩ }
  mulWrite _ _ h hm := { h.finish _ (h.mul3 _ hm).prod with mul3 := forall_of_none }
  mulPass _ h := { h with mul2 := forall_of_none, mul3 := h.mul2 }
  mulStart _ _ _ h hu _ hp :=
    have hi := h.mul1 _ hu
    { h with mul1 := forall_of_none, mul2 := forall_of_some ⟨hi, hp h hi⟩ }
  int _ _ _ _ h hu _ hr := { h.finish _ (hr h (h.int _ hu)) with int := forall_of_none }
  fault _ f h := h.raiseFault f
  load _ _ _ h hm hr := { h.finish _ (hr h (h.acc _ hm).imm) with acc := forall_of_none }
  store _ _ h hm := { h.stageStore _ (h.acc _ hm) with acc := forall_of_none }
  pass _ h := h.passStage
  agen s _ _ _ h hu _ ha hd :=
    have hi := h.mem1 _ hu
    have hl : State.WordsOk { s with lMem1 := none } := { h with mem1 := forall_of_none }
    hl.intoMem2 ⟨hi, ha h hi, hd h hi⟩
  resolve _ _ taken h hb := h.resolved (h.bru2 _ hb) taken
  issue _ h := h.issueStage
  dispatch _ _ ps h hd _ _ := h.allocate (h.ld _ hd).pc (h.ld _ hd).imm ps
  fetch _ h := h.fetchStage
  finish _ h := h.endCycle

/-- Settles O57: the words are a property that every stage keeps. -/
theorem wordsStayWords : Obligations.WordsStayWords := by
  unfold Obligations.WordsStayWords
  intro s t hst hw h
  exact (wordsOk_preserved.step s t hw hst h).1

end Sys2Proof.Machine

/-! PROOF. What each stage can write: for the operations that are defined by cases, one equation that names the fields they
write, and one rule for the issue stage. The invariants of the state (O44, O45, O47, O48, O50, O51, O54) are proved from these. -/

namespace Sys2Proof.Machine

/-! ### Commit -/

/-- Retiring the head entry writes the physical registers and the retirement table. -/
theorem State.retireHead_eq (s : State) (rd : Nat) (e : RobEntry) :
    s.retireHead rd e = { s with prf := (s.retireHead rd e).prf, rrat := (s.retireHead rd e).rrat } := by
  unfold State.retireHead; split <;> rfl

theorem length_freeSlot (prf : List PhysReg) (o : Option Nat) : (freeSlot prf o).length = prf.length := by
  cases o <;> simp [freeSlot]

theorem length_freeDests (es : List RobEntry) : ∀ prf : List PhysReg, (freeDests prf es).length = prf.length := by
  induction es with
  | nil => exact fun _ => rfl
  | cons e es ih => exact fun prf => (ih (freeSlot prf e.pd)).trans (length_freeSlot prf e.pd)

theorem State.length_retireHead_prf (s : State) (rd : Nat) (e : RobEntry) :
    (s.retireHead rd e).prf.length = s.prf.length := by
  unfold State.retireHead; split <;> simp [installResult, length_freeSlot]

theorem State.length_retireHead_rrat (s : State) (rd : Nat) (e : RobEntry) :
    (s.retireHead rd e).rrat.length = s.rrat.length := by
  unfold State.retireHead; split <;> simp

/-- `t` is `s` but for what a commit that does not reset the ROB may write, and no table of it has another size. -/
structure CommitWrites (s t : State) : Prop where
  eq : t = { s with
    prf := t.prf, rrat := t.rrat, dmem := t.dmem, rob := t.rob, head := t.head, count := t.count
    halted := t.halted, haltRetired := t.haltRetired, fault := t.fault }
  prf : t.prf.length = s.prf.length
  rrat : t.rrat.length = s.rrat.length
  rob : t.rob.length = s.rob.length

theorem CommitWrites.pop (s : State) : CommitWrites s s.pop := ⟨rfl, rfl, rfl, by simp⟩

theorem CommitWrites.retirePop (s : State) (rd : Nat) (e : RobEntry) : CommitWrites s (s.retireHead rd e).pop where
  eq := by rw [s.retireHead_eq]; rfl
  prf := s.length_retireHead_prf rd e
  rrat := s.length_retireHead_rrat rd e
  rob := by rw [s.retireHead_eq]; simp

theorem CommitWrites.storePop (s : State) (e : RobEntry) : CommitWrites s (s.memWrite e.ea e.result).pop :=
  ⟨rfl, rfl, rfl, by simp⟩

theorem CommitWrites.raiseFault (s : State) (f : FaultRecord) : CommitWrites s (s.raiseFault f) := ⟨rfl, rfl, rfl, rfl⟩

theorem CommitWrites.haltPop (s : State) : CommitWrites s { s.pop with halted := true, haltRetired := true } :=
  ⟨rfl, rfl, rfl, by simp⟩

/-- A commit writes the fields of `CommitWrites`, and may then reset the ROB. -/
theorem CommitEffect.writes {i : Instr} {e : RobEntry} {s t : State} (h : CommitEffect i e s t) :
    ∃ u, CommitWrites s u ∧ (t = u ∨ t = u.robReset e.ea) := by
  cases h with
  | producer rd => exact ⟨_, .retirePop s rd e, .inl rfl⟩
  | store => exact ⟨_, .storePop s e, .inl rfl⟩
  | storeFault => exact ⟨_, .raiseFault s _, .inl rfl⟩
  | plain => exact ⟨_, .pop s, .inl rfl⟩
  | reset => exact ⟨_, .pop s, .inr rfl⟩
  | jal rd => exact ⟨_, .retirePop s rd e, .inr rfl⟩
  | halt => exact ⟨_, .haltPop s, .inl rfl⟩

/-! ### The memory pipeline -/

theorem State.intoMem2_eq (s : State) (m : MemOp) :
    s.intoMem2 m = { s with memPass := (s.intoMem2 m).memPass, lAcc := (s.intoMem2 m).lAcc } := by
  unfold State.intoMem2; split <;> rfl

theorem State.length_intoMem2_memPass (s : State) (m : MemOp) : (s.intoMem2 m).memPass.length = s.memPass.length := by
  unfold State.intoMem2; split <;> simp [*]

/-- The memory latches behind MEM1 hold `m` or what they held. -/
theorem State.mem_intoMem2 {s : State} {m x : MemOp}
    (h : some x ∈ (s.intoMem2 m).memPass ∨ (s.intoMem2 m).lAcc = some x) :
    x = m ∨ some x ∈ s.memPass ∨ s.lAcc = some x := by
  unfold State.intoMem2 at h
  split at h
  · rename_i hp
    simp only [hp, List.not_mem_nil, false_or, Option.some.injEq] at h
    exact .inl h.symm
  · rename_i hp
    simp only [List.mem_cons, Option.some.injEq, hp] at h ⊢
    tauto

theorem passStage_eq (s : State) :
    passStage s = { s with memPass := (passStage s).memPass, lAcc := (passStage s).lAcc } := by
  unfold passStage; split <;> rfl

theorem length_passStage_memPass (s : State) : (passStage s).memPass.length = s.memPass.length := by
  unfold passStage
  split
  · rfl
  · rename_i h
    have hp : s.memPass ≠ [] := by rintro h0; simp [h0] at h
    simp [Nat.sub_add_cancel (List.length_pos_iff.2 hp)]

/-- The pass-through stages move what the latches held. -/
theorem mem_passStage {s : State} {x : MemOp} (h : some x ∈ (passStage s).memPass ∨ (passStage s).lAcc = some x) :
    some x ∈ s.memPass ∨ s.lAcc = some x := by
  unfold passStage at h
  split at h
  · exact h
  · rename_i o ho
    rcases h with h | h
    · exact .inl (List.mem_of_mem_dropLast ((List.mem_cons.1 h).resolve_left nofun))
    · exact .inl (h ▸ List.mem_of_getLast? ho)

/-! ### Issue -/

/-- An occupied slot after a selection is taken was occupied by the same micro-op before. -/
theorem issueFrom_slot {s : State} {c : FuClass} {o : Option Nat} {j : Nat} {u : IqEntry}
    (h : (s.issueFrom c o).iq[j]? = some (some u)) : s.iq[j]? = some (some u) := by
  rw [issueFrom_iq] at h
  by_cases ho : o = some j
  · subst ho
    simp [takeSlot, List.getElem?_set] at h
  · rwa [takeSlot_other _ _ _ ho] at h

/-- The slot `o` holds nothing but micro-ops of class `c`. -/
def State.Selects (s : State) (c : FuClass) (o : Option Nat) : Prop :=
  ∀ k u, o = some k → s.iq[k]? = some (some u) → u.insn.cls = some c

theorem State.selects_select (s : State) (c : FuClass) : s.Selects c (s.select c) := by
  intro k u hk hu
  obtain ⟨⟨v, hv, hc, _⟩, _⟩ := (s.select_eq_some c k).1 hk
  rw [hu] at hv
  cases hv
  exact hc

theorem State.Selects.issueFrom {s : State} {c : FuClass} {o : Option Nat} (h : s.Selects c o) (c' : FuClass)
    (o' : Option Nat) : (s.issueFrom c' o').Selects c o :=
  fun k u hk hu => h k u hk (issueFrom_slot hu)

/-- A property that the issue of one queued micro-op to its own unit keeps is kept by the issue stage (R142). -/
theorem issueStage_keeps {P : State → Prop} (hP : ∀ s c k u, P s → s.iq[k]? = some (some u) → u.insn.cls = some c →
    P ({ s with iq := s.iq.set k none }.place c u)) {s : State} (hs : P s) : P (issueStage s) := by
  have one : ∀ (s : State) c o, P s → s.Selects c o → P (s.issueFrom c o) := by
    intro s c o hs ho
    unfold State.issueFrom
    split
    · exact hs
    · split
      · exact hs
      · rename_i k _ u hu
        have hu := Option.join_eq_some_iff.1 hu
        exact hP s c k u hs hu (ho k u rfl hu)
  have sel := s.selects_select
  have h1 := one s .int _ hs (sel .int)
  have h2 := one _ .mul _ h1 ((sel .mul).issueFrom _ _)
  have h3 := one _ .branch _ h2 (((sel .branch).issueFrom _ _).issueFrom _ _)
  exact one _ .mem _ h3 ((((sel .mem).issueFrom _ _).issueFrom _ _).issueFrom _ _)

/-! ### Dispatch, fetch and the end of the cycle -/

/-- A dispatch: the fields written by renaming, by the queue or the bypass, by the ROB, and by the front end. -/
theorem State.allocate_eq (s : State) (pc : Word) (i : Instr) (ps : List Nat) :
    s.allocate pc i ps =
      { s with
        prf := (s.claimDest i).prf, srat := (s.claimDest i).srat
        iq := (s.enqueue i ps (s.microOp i ps)).iq, lMem1 := (s.enqueue i ps (s.microOp i ps)).lMem1
        rob := s.rob.set s.tail (some (s.robEntryFor pc i ps)), tail := (s.tail + 1) % s.rob.length, count := s.count + 1
        branchPending := i.ctl || s.branchPending, ld := none } := by
  unfold State.allocate State.claimDest State.enqueue
  repeat' split
  all_goals simp_all [State.destFor, State.freePhys, State.push, State.renameDest]

theorem map_modify_of_comp_eq {α β : Type} {f : α → α} {g : α → β} (l : List α) (i : Nat) (h : ∀ x, g (f x) = g x) :
    (l.modify i f).map g = l.map g := by
  refine List.ext_getElem? fun j => ?_
  simp only [List.getElem?_map, List.getElem?_modify]
  split <;> simp [Function.comp_def, h]

theorem claimSlot_values (prf : List PhysReg) (p : Nat) :
    (claimSlot prf p).map (fun r => r.value) = prf.map (fun r => r.value) :=
  map_modify_of_comp_eq prf p fun _ => rfl

theorem State.claimDest_values (s : State) (i : Instr) :
    (s.claimDest i).prf.map (fun r => r.value) = s.prf.map (fun r => r.value) := by
  unfold State.claimDest
  split
  · exact claimSlot_values _ _
  · rfl

theorem State.length_claimDest_prf (s : State) (i : Instr) : (s.claimDest i).prf.length = s.prf.length := by
  simpa using congrArg List.length (s.claimDest_values i)

theorem State.length_claimDest_srat (s : State) (i : Instr) : (s.claimDest i).srat.length = s.srat.length := by
  unfold State.claimDest; split <;> simp

theorem State.length_enqueue_iq (s : State) (i : Instr) (ps : List Nat) (u : IqEntry) :
    (s.enqueue i ps u).iq.length = s.iq.length := by
  unfold State.enqueue
  repeat' split
  all_goals simp

theorem fetchStage_eq (s : State) :
    fetchStage s = { s with pc := (fetchStage s).pc, lf := (fetchStage s).lf, ld := (fetchStage s).ld } := by
  unfold fetchStage State.advanceFront
  repeat' split
  all_goals rfl

theorem fetchStage_of_branchPending {s : State} (h : s.branchPending = true) : fetchStage s = s := by
  simp [fetchStage, h]

theorem endCycle_eq (s : State) : endCycle s = { s with srat := (endCycle s).srat } := by
  unfold endCycle; split <;> rfl

/-- A step in two halves: `P` holds before issue, the front end keeps it, and `Q` follows from it where the cycle ends, by a
fault or by its last stage. -/
theorem step_of_halves {P Q : State → Prop} {s t : State}
    (hb : ∀ a, beforeIssue s = .next a → P a ∧ a.stage = .dispatch) (hP : FrontKeeps P) (hf : ∀ a, P a → Q a)
    (he : ∀ a, P a → Q (endCycle a)) (h : step s = .next t) : Q t := by
  rcases andThen_next (step_next h).2.2 with ⟨ha, _⟩ | ⟨a, ha, _, hc⟩
  · exact hf t (hb t ha).1
  · obtain ⟨hPa, hst⟩ := hb a ha
    exact (hP.frontStages a t hPa hst (fun _ h _ => hf _ h) (fun _ h _ => he _ h) hc).1

/-! ### The unit latches (O48) -/

/-- A ROB reset empties every latch. -/
theorem State.unitsOk_robReset (s : State) (a : Word) : (s.robReset a).UnitsOk where
  int := forall_of_none
  mul1 := forall_of_none
  mul2 := forall_of_none
  mul3 := forall_of_none
  bru1 := forall_of_none
  bru2 := forall_of_none
  mem1 := forall_of_none
  pass m hm := (not_mem_map_none _ m hm).elim
  acc := forall_of_none

namespace State.UnitsOk

variable {s : State} (h : s.UnitsOk)
include h

theorem commitWrites {u : State} (hu : CommitWrites s u) : u.UnitsOk := by
  rw [hu.eq]
  exact { h with }

/-- The memory stages rewrite the latches behind MEM1 only. -/
theorem of_memory {t : State} (ht : t = { s with memPass := t.memPass, lAcc := t.lAcc })
    (hm : ∀ m, some m ∈ t.memPass ∨ t.lAcc = some m → m.entry.cls = some .mem) : t.UnitsOk := by
  have hk : State.UnitsOk { s with memPass := t.memPass, lAcc := t.lAcc } :=
    { h with pass := fun m hp => hm m (.inl hp), acc := fun m ha => hm m (.inr ha) }
  rwa [← ht] at hk

theorem cls_of_memory {m : MemOp} (hm : some m ∈ s.memPass ∨ s.lAcc = some m) : m.entry.cls = some .mem :=
  hm.elim (h.pass m) (h.acc m)

theorem place (c : FuClass) {u : IqEntry} (hu : u.cls = some c) : (s.place c u).UnitsOk := by
  cases c with
  | int => exact { h with int := forall_of_some hu }
  | mul => exact { h with mul1 := forall_of_some hu }
  | branch => exact { h with bru1 := forall_of_some hu }
  | mem => exact { h with mem1 := forall_of_some hu }

/-- The bypass puts a micro-op into L.MEM1 only where the instruction is of the memory class (R115). -/
theorem enqueue (i : Instr) (ps : List Nat) {u : IqEntry} (hu : u.insn = i) : (s.enqueue i ps u).UnitsOk := by
  unfold State.enqueue
  split
  · rename_i hb
    have hi : i.isMem = true := by simp_all [State.bypasses]
    exact { h with mem1 := forall_of_some (by simpa [Instr.isMem, IqEntry.cls, hu] using hi) }
  · split
    · split
      · exact { h with }
      · exact h
    · exact h

theorem allocate (pc : Word) (i : Instr) (ps : List Nat) : (s.allocate pc i ps).UnitsOk := by
  rw [s.allocate_eq]
  exact { h with mem1 := (h.enqueue i ps rfl).mem1 }

end State.UnitsOk

theorem unitsOk_preserved : Preserved State.UnitsOk where
  start _ h := { h with }
  commit _ _ _ h _ _ hc := by
    obtain ⟨u, hu, rfl | rfl⟩ := hc.writes
    · exact h.commitWrites hu
    · exact u.unitsOk_robReset _
  target _ u _ _ h _ hc _ _ := { h with bru1 := forall_of_none, bru2 := forall_of_some hc }
  mulWrite _ _ h _ := { h with mul3 := forall_of_none }
  mulPass _ h := { h with mul2 := forall_of_none, mul3 := h.mul2 }
  mulStart _ _ _ h _ hc _ := { h with mul1 := forall_of_none, mul2 := forall_of_some hc }
  int _ _ _ _ h _ _ _ := { h with int := forall_of_none }
  fault _ _ h := { h with }
  load _ _ _ h _ _ := { h with acc := forall_of_none }
  store _ _ h _ := { h with acc := forall_of_none }
  pass _ h := h.of_memory (passStage_eq _) fun _ hm => h.cls_of_memory (mem_passStage hm)
  agen s u ea data h _ hc _ _ := by
    have hl : State.UnitsOk { s with lMem1 := none } := { h with mem1 := forall_of_none }
    refine hl.of_memory (State.intoMem2_eq _ _) fun m hm => ?_
    rcases State.mem_intoMem2 hm with rfl | hm
    · exact hc
    · exact hl.cls_of_memory hm
  resolve s b taken h _ := by
    cases taken <;> exact { h with bru2 := forall_of_none }
  issue s h := issueStage_keeps (fun s c k u h _ hc =>
    have hk : State.UnitsOk { s with iq := s.iq.set k none } := { h with }
    hk.place c hc) h
  dispatch _ d ps h _ _ _ := h.allocate d.pc d.insn ps
  fetch s h := by
    rw [fetchStage_eq]
    exact { h with }
  finish s h := by
    rw [endCycle_eq]
    exact { h with }

/-- Settles O48: issue and the bypass give a unit only micro-ops of its class, and every other stage moves or drops what a
latch holds. -/
theorem unitLatchesHoldTheirClass : Obligations.UnitLatchesHoldTheirClass := by
  unfold Obligations.UnitLatchesHoldTheirClass
  intro s t hst hu h
  exact (unitsOk_preserved.step s t hu hst h).1

/-! ### The store, the parameters and the sizes (O47) -/

namespace SameShape

variable {s t : State} (h : SameShape s t)
include h

theorem commitWrites {u : State} (hu : CommitWrites t u) : SameShape s u := by
  rw [hu.eq]
  exact { h with prf := hu.prf.trans h.prf, rrat := hu.rrat.trans h.rrat, rob := hu.rob.trans h.rob }

/-- The ROB reset copies RRAT over SRAT, so it keeps the size of SRAT where the two tables have one size. -/
theorem robReset (hs : s.srat.length = s.rrat.length) (a : Word) : SameShape s (t.robReset a) :=
  { h with
    prf := (length_freeDests _ _).trans h.prf
    srat := h.rrat.trans hs.symm
    iq := (List.length_map _).trans h.iq
    rob := (List.length_map _).trans h.rob
    memPass := (List.length_map _).trans h.memPass }

theorem robUpdate (i : Nat) (f : RobEntry → RobEntry) : SameShape s (t.robUpdate i f) :=
  { h with rob := (List.length_modify ..).trans h.rob }

theorem place (c : FuClass) (u : IqEntry) : SameShape s (t.place c u) := by
  cases c with
  | int => exact { h with }
  | mul => exact { h with }
  | branch => exact { h with }
  | mem => exact { h.robUpdate u.rob _ with }

theorem allocate (pc : Word) (i : Instr) (ps : List Nat) : SameShape s (t.allocate pc i ps) := by
  rw [t.allocate_eq]
  exact { h with
    prf := (t.length_claimDest_prf i).trans h.prf
    srat := (t.length_claimDest_srat i).trans h.srat
    iq := (t.length_enqueue_iq i ps _).trans h.iq
    rob := List.length_set.trans h.rob }

theorem resolved (b : BruOp) (taken : Bool) : SameShape s (resolved t b taken) := by
  have hr := h.robUpdate b.entry.rob (fun e => e.resolve b taken)
  cases taken with
  | false => exact { hr with }
  | true => exact { hr with iq := (List.length_map _).trans hr.iq }

theorem endCycle (hs : s.srat.length = s.rrat.length) : SameShape s (endCycle t) := by
  unfold Machine.endCycle
  split
  · exact { h with srat := h.rrat.trans hs.symm }
  · exact h

end SameShape

/-- Both rename tables have one size at the start, since the ROB reset and the end of the cycle copy RRAT over SRAT. -/
theorem sameShape_preserved {s₀ : State} (hs : s₀.srat.length = s₀.rrat.length) : Preserved (SameShape s₀) where
  start _ h := { h with }
  commit _ _ _ h _ _ hc := by
    obtain ⟨u, hu, rfl | rfl⟩ := hc.writes
    · exact h.commitWrites hu
    · exact (h.commitWrites hu).robReset hs _
  target _ _ _ _ h _ _ _ _ := { h with }
  mulWrite _ _ h _ := { h.robUpdate _ _ with }
  mulPass _ h := { h with }
  mulStart _ _ _ h _ _ _ := { h with }
  int _ _ _ _ h _ _ _ := { h.robUpdate _ _ with }
  fault _ _ h := { h with }
  load _ _ _ h _ _ := { h.robUpdate _ _ with }
  store _ _ h _ := { h.robUpdate _ _ with }
  pass s h := by
    have hl := length_passStage_memPass s
    rw [passStage_eq]
    exact { h with memPass := hl.trans h.memPass }
  agen s u ea data h _ _ _ _ := by
    rw [State.intoMem2_eq]
    exact { h with memPass := (State.length_intoMem2_memPass _ _).trans h.memPass }
  resolve _ b taken h _ := h.resolved b taken
  issue _ h := issueStage_keeps (fun s c _ u h _ _ =>
    have hk : SameShape s₀ { s with iq := s.iq.set _ none } := { h with iq := List.length_set.trans h.iq }
    hk.place c u) h
  dispatch _ d ps h _ _ _ := h.allocate d.pc d.insn ps
  fetch s h := by
    rw [fetchStage_eq]
    exact { h with }
  finish _ h := h.endCycle hs

theorem SameShape.refl (s : State) : SameShape s s := ⟨rfl, rfl, rfl, rfl, rfl, rfl, rfl, rfl, rfl, rfl, rfl⟩

/-- Settles O47: having the shape of the state before the step is a property that every stage keeps. -/
theorem storeAndParametersNeverWritten : Obligations.StoreAndParametersNeverWritten := by
  unfold Obligations.StoreAndParametersNeverWritten
  intro s t hst hs h
  exact ((sameShape_preserved hs).step s t (.refl s) hst h).1

/-! ### The architectural state (O44) -/

/-- `t` has the architectural state of `s`: the retirement table, the values of the physical slots, the data memory, the head
cursor and the bit `halted`. -/
structure SameArch (s t : State) : Prop where
  rrat : t.rrat = s.rrat
  values : t.prf.map (fun r => r.value) = s.prf.map (fun r => r.value)
  dmem : t.dmem = s.dmem
  head : t.head = s.head
  halted : t.halted = s.halted

theorem State.physValue_eq (s : State) (p : Nat) : s.physValue p = ((s.prf.map (fun r => r.value))[p]?).getD 0 := by
  rw [List.getElem?_map]
  unfold State.physValue
  split <;> simp [*]

/-- A program reads a register through RRAT and the physical slots. -/
theorem SameArch.archReg {s t : State} (h : SameArch s t) (r : Nat) : t.archReg r = s.archReg r := by
  simp only [State.archReg, State.retired, h.rrat, State.physValue_eq, h.values]

theorem sameArch_unitsKeep (s₀ : State) : UnitsKeep (SameArch s₀) where
  target _ _ _ _ h _ _ _ _ := { h with }
  mulWrite _ _ h _ := { h with }
  mulPass _ h := { h with }
  mulStart _ _ _ h _ _ _ := { h with }
  int _ _ _ _ h _ _ _ := { h with }
  fault _ _ h := { h with }
  load _ _ _ h _ _ := { h with }
  store _ _ h _ := { h with }
  pass s h := by
    rw [passStage_eq]
    exact { h with }
  agen s u ea data h _ _ _ _ := by
    rw [State.intoMem2_eq]
    exact { h with }
  resolve _ b taken h _ := by
    cases taken <;> exact { h with }

theorem sameArch_frontKeeps (s₀ : State) : FrontKeeps (SameArch s₀) where
  fault _ _ h := { h with }
  issue _ h := issueStage_keeps (fun _ c _ _ h _ _ => by cases c <;> exact { h with }) h
  dispatch s d ps h _ _ _ := by
    rw [s.allocate_eq]
    exact { h with values := (s.claimDest_values _).trans h.values }
  fetch s h := by
    rw [fetchStage_eq]
    exact { h with }

/-- Without a valid head entry the commit stage does nothing (R240). -/
theorem commitStage_of_not_valid {s : State} (h : ∀ e, s.headEntry = some e → e.resultValid = false) :
    commitStage s = .next s := by
  unfold commitStage
  cases s.count with
  | zero => rfl
  | succ n =>
    unfold commitLoop
    cases he : s.headEntry with
    | none => rfl
    | some e => simp [h e he]

/-- Settles O44: the commit stage does nothing, and no later stage writes architectural state. -/
theorem architecturalStateOnlyByCommit : Obligations.ArchitecturalStateOnlyByCommit := by
  unfold Obligations.ArchitecturalStateOnlyByCommit
  intro s t hst h hv
  have hf := (step_next h).1
  have hhead : ∀ e, (startCycle s).headEntry = some e → e.resultValid = false := by
    intro e he
    obtain ⟨h0, he⟩ := State.headEntry_some he
    obtain ⟨e', he', hv⟩ := hv.resolve_left h0
    simp only [State.robAt, startCycle_rob, startCycle_head, he', Option.join_some, Option.some.injEq] at he
    exact he ▸ hv
  have hb : ∀ u, beforeIssue s = .next u → SameArch s u ∧ u.stage = .dispatch := by
    intro u hu
    have hstart : SameArch s (startCycle s) := ⟨rfl, rfl, rfl, rfl, rfl⟩
    simp only [beforeIssue, commitStage_of_not_valid hhead, andThen, startCycle_fault, hf] at hu
    exact (sameArch_unitsKeep s).unitStages _ u hstart hst hu
  have ht : SameArch s t := step_of_halves hb (sameArch_frontKeeps s) (fun _ h => h)
    (fun a h => by rw [endCycle_eq]; exact { h with }) h
  exact ⟨ht.rrat, ht.values, ht.archReg, ht.dmem, ht.head, ht.halted⟩

/-! ### The flag (O45) -/

/-- Z has the value `z`, and L.INT holds no flag setter. -/
structure State.FlagHeld (z : Bool) (s : State) : Prop where
  z : s.z = z
  int : ∀ u, s.lInt = some u → writesZ u.insn = false

theorem flagHeld_commitKeeps (z : Bool) : CommitKeeps (State.FlagHeld z) where
  start _ h := { h with }
  commit _ _ _ h _ _ hc := by
    obtain ⟨u, hu, ht⟩ := hc.writes
    have h' : u.FlagHeld z := by
      rw [hu.eq]
      exact { h with }
    rcases ht with rfl | rfl
    · exact h'
    · exact { h' with int := forall_of_none }

theorem flagHeld_unitsKeep (z : Bool) : UnitsKeep (State.FlagHeld z) where
  target _ _ _ _ h _ _ _ _ := { h with }
  mulWrite _ _ h _ := { h with }
  mulPass _ h := { h with }
  mulStart _ _ _ h _ _ _ := { h with }
  int _ u _ _ h hu hz _ := ⟨(hz (h.int u hu)).trans h.z, forall_of_none⟩
  fault _ _ h := { h with }
  load _ _ _ h _ _ := { h with }
  store _ _ h _ := { h with }
  pass s h := by
    rw [passStage_eq]
    exact { h with }
  agen s u ea data h _ _ _ _ := by
    rw [State.intoMem2_eq]
    exact { h with }
  resolve _ b taken h _ := by
    cases taken <;> exact { h with }

/-- Issue may put a flag setter into L.INT, but nothing from there on runs it in this cycle. -/
theorem z_frontKeeps (z : Bool) : FrontKeeps (fun s => s.z = z) where
  fault _ _ h := h
  issue _ h := issueStage_keeps (P := fun s => s.z = z) (fun _ c _ _ h _ _ => by cases c <;> exact h) h
  dispatch s d ps h _ _ _ := by rw [s.allocate_eq]; exact h
  fetch s h := by rw [fetchStage_eq]; exact h

theorem writesZ_false {i : Instr} (h : ∀ (a b c : Nat) (w : Word), i ≠ .add a b c ∧ i ≠ .sub a b c ∧ i ≠ .addl a b w ∧
    i ≠ .subl a b w ∧ i ≠ .cmp a b c) : writesZ i = false := by
  cases i with
  | add a b c => simpa using h a b c 0
  | sub a b c => simpa using h a b c 0
  | addl a b w => simpa using h a b 0 w
  | subl a b w => simpa using h a b 0 w
  | cmp a b c => simpa using h a b c 0
  | _ => rfl

/-- Settles O45: up to the integer stage L.INT holds no flag setter, so that stage leaves Z, and no other stage writes it. -/
theorem flagWrittenOnlyBySetters : Obligations.FlagWrittenOnlyBySetters := by
  unfold Obligations.FlagWrittenOnlyBySetters
  intro s t hst h hu
  have hs : s.FlagHeld s.z := ⟨rfl, fun u hl => writesZ_false (hu u hl)⟩
  have hb : ∀ a, beforeIssue s = .next a → a.z = s.z ∧ a.stage = .dispatch := fun a ha =>
    (beforeIssue_keeps (flagHeld_commitKeeps s.z) (flagHeld_unitsKeep s.z) s a hs hst ha).imp_left (·.z)
  exact step_of_halves (Q := fun a => a.z = s.z) hb (z_frontKeeps s.z) (fun _ h => h)
    (fun a h => by rw [endCycle_eq]; exact h) h

/-! ### Unresolved branches (O54) -/

/-- The control-flow instructions of a queue. -/
def queuedCtl (iq : List (Option IqEntry)) : Nat := iq.countP (Option.any (fun u => u.insn.ctl))

/-- The control-flow instructions in the queue, L.BRU1 and L.BRU2. -/
theorem State.unresolved_eq (s : State) :
    s.unresolved = queuedCtl s.iq + s.lBru1.isSome.toNat + s.lBru2.isSome.toNat := by
  have hf : (Option.any fun u : IqEntry => u.insn.ctl) = fun e => match e with
      | some u => u.insn.ctl
      | none => false := by
    funext e; cases e <;> rfl
  simp only [queuedCtl, hf, Bool.toNat, Bool.cond_eq_ite]
  rfl

theorem queuedCtl_map_none {α : Type} (l : List α) : queuedCtl (l.map (fun _ => none)) = 0 := by
  simp [queuedCtl]

/-- Taking a micro-op out of the queue takes it out of the count. -/
theorem queuedCtl_take {iq : List (Option IqEntry)} {k : Nat} {u : IqEntry} (hu : iq[k]? = some (some u)) :
    queuedCtl (iq.set k none) + u.insn.ctl.toNat = queuedCtl iq := by
  obtain ⟨hk, he⟩ := List.getElem?_eq_some_iff.1 hu
  have hpos : u.insn.ctl = true → 0 < queuedCtl iq := fun hc =>
    List.countP_pos_iff.2 ⟨some u, he ▸ List.getElem_mem hk, hc⟩
  simp only [queuedCtl, List.countP_set hk, he, Option.any] at hpos ⊢
  cases hc : u.insn.ctl with
  | false => simp
  | true => have := hpos hc; simp; omega

/-- Putting a micro-op into a free slot adds it to the count. -/
theorem queuedCtl_put {iq : List (Option IqEntry)} {k : Nat} (u : IqEntry) (hk : iq[k]? = some none) :
    queuedCtl (iq.set k (some u)) = queuedCtl iq + u.insn.ctl.toNat := by
  obtain ⟨hk, he⟩ := List.getElem?_eq_some_iff.1 hk
  simp [queuedCtl, List.countP_set hk, he, Bool.toNat, Bool.cond_eq_ite]

theorem State.freeIq_eq_some {s : State} {k : Nat} (h : s.freeIq = some k) : s.iq[k]? = some none := by
  obtain ⟨hk, he, _⟩ := List.findIdx?_eq_some_iff_getElem.1 h
  rw [List.getElem?_eq_getElem hk, Option.isNone_iff_eq_none.1 he]

/-- A control-flow instruction never takes the bypass, so its dispatch puts it into the queue. -/
theorem queuedCtl_enqueue {s : State} {i : Instr} {ps : List Nat} {u : IqEntry} (hu : u.insn = i)
    (hs : s.stalls i ps = false) : queuedCtl (s.enqueue i ps u).iq = queuedCtl s.iq + i.ctl.toNat := by
  unfold State.enqueue
  split
  · rename_i hb
    have hm : i.isMem = true := by simp_all [State.bypasses]
    have hc : i.ctl = false := by simp_all [Instr.isMem, Instr.ctl]
    simp [hc]
  · rename_i hb
    split
    · rename_i hi
      obtain ⟨k, hk⟩ := (State.stalls_false hs).2.2 (by simp [State.needsIq, hi, hb])
      simp only [hk]
      rw [queuedCtl_put u (State.freeIq_eq_some hk), hu]
    · rename_i hi
      have hc : i.ctl = false := by simp_all [Instr.ctl]
      simp [hc]

/-- The count of `State.BranchOk` in terms of `queuedCtl`. -/
theorem State.branchOk_iff (s : State) : s.BranchOk ↔
    queuedCtl s.iq + s.lBru1.isSome.toNat + s.lBru2.isSome.toNat = s.branchPending.toNat ∧
      (s.branchPending = true → s.ld = none) := by
  rw [← s.unresolved_eq, Bool.toNat, Bool.cond_eq_ite]
  exact ⟨fun h => ⟨h.one, h.front⟩, fun h => ⟨h.1, h.2⟩⟩

theorem State.branchOk_of_idle {s : State} (hq : queuedCtl s.iq = 0) (h1 : s.lBru1 = none) (h2 : s.lBru2 = none)
    (hp : s.branchPending = false) : s.BranchOk := by
  simp [s.branchOk_iff, hq, h1, h2, hp]

namespace State.BranchOk

variable {s : State} (h : s.BranchOk)
include h

/-- The branch that BRU2 resolves is the only one. -/
theorem alone {b : BruOp} (hb : s.lBru2 = some b) : queuedCtl s.iq = 0 ∧ s.lBru1 = none := by
  obtain ⟨h1, _⟩ := s.branchOk_iff.1 h
  have hle := s.branchPending.toNat_le
  have hq : queuedCtl s.iq + s.lBru1.isSome.toNat = 0 := by
    rw [hb, Option.isSome_some, Bool.toNat_true] at h1
    omega
  obtain ⟨hq, hl⟩ := Nat.add_eq_zero_iff.1 hq
  exact ⟨hq, by simpa using hl⟩

theorem target {u : IqEntry} (hu : s.lBru1 = some u) (a l : Word) :
    State.BranchOk { s with lBru2 := some ⟨u, a, l⟩, lBru1 := none } := by
  obtain ⟨h1, h2⟩ := s.branchOk_iff.1 h
  refine (State.branchOk_iff _).2 ⟨?_, h2⟩
  cases hl : s.lBru2 with
  | none => simpa [hu, hl] using h1
  | some b => simp [h.alone hl] at hu

theorem resolved {b : BruOp} (hb : s.lBru2 = some b) (taken : Bool) : (resolved s b taken).BranchOk := by
  obtain ⟨hq, h1⟩ := h.alone hb
  cases taken with
  | false => exact State.branchOk_of_idle hq h1 rfl rfl
  | true => exact State.branchOk_of_idle (queuedCtl_map_none _) h1 rfl rfl

/-- A branch that is issued leaves the queue for L.BRU1, which is empty since the branch is the only one. -/
theorem place {c : FuClass} {k : Nat} {u : IqEntry} (hu : s.iq[k]? = some (some u)) (hc : u.insn.cls = some c) :
    ({ s with iq := s.iq.set k none }.place c u).BranchOk := by
  obtain ⟨h1, h2⟩ := s.branchOk_iff.1 h
  have hq := queuedCtl_take hu
  have hctl : u.insn.ctl = (c == .branch) := by simp [Instr.ctl, hc]
  rw [hctl] at hq
  refine (State.branchOk_iff _).2 ⟨?_, by cases c <;> exact h2⟩
  cases c with
  | branch =>
    have hle := s.branchPending.toNat_le
    have hq : queuedCtl (s.iq.set k none) + 1 = queuedCtl s.iq := hq
    show queuedCtl (s.iq.set k none) + 1 + s.lBru2.isSome.toNat = s.branchPending.toNat
    omega
  | _ => rw [← hq] at h1; exact h1

/-- A branch is dispatched only while `branch_pending` is clear, since L.D is empty while it is set. -/
theorem allocate {d : Fetched} {ps : List Nat} (hd : s.ld = some d) (hs : s.stalls d.insn ps = false) :
    (s.allocate d.pc d.insn ps).BranchOk := by
  obtain ⟨h1, h2⟩ := s.branchOk_iff.1 h
  have hp : s.branchPending = false := by
    cases hp : s.branchPending with
    | false => rfl
    | true => simp [h2 hp] at hd
  have hq := queuedCtl_enqueue (i := d.insn) (u := s.microOp d.insn ps) rfl hs
  rw [hp] at h1
  rw [s.allocate_eq]
  refine (State.branchOk_iff _).2 ⟨?_, fun _ => rfl⟩
  have hz : queuedCtl s.iq + s.lBru1.isSome.toNat + s.lBru2.isSome.toNat = 0 := h1
  show queuedCtl (s.enqueue d.insn ps (s.microOp d.insn ps)).iq + s.lBru1.isSome.toNat + s.lBru2.isSome.toNat =
    (d.insn.ctl || s.branchPending).toNat
  rw [hp, Bool.or_false, hq]
  omega

theorem fetchStage : (fetchStage s).BranchOk := by
  cases hp : s.branchPending with
  | true => rwa [fetchStage_of_branchPending hp]
  | false =>
    rw [fetchStage_eq]
    exact { h with front := fun hb => absurd (hp.symm.trans hb) (by decide) }

end State.BranchOk

theorem branchOk_preserved : Preserved State.BranchOk where
  start _ h := { h with }
  commit _ _ _ h _ _ hc := by
    obtain ⟨u, hu, ht⟩ := hc.writes
    have h' : u.BranchOk := by
      rw [hu.eq]
      exact { h with }
    rcases ht with rfl | rfl
    · exact h'
    · exact State.branchOk_of_idle (queuedCtl_map_none _) rfl rfl rfl
  target _ _ a l h hu _ _ _ := h.target hu a l
  mulWrite _ _ h _ := { h with }
  mulPass _ h := { h with }
  mulStart _ _ _ h _ _ _ := { h with }
  int _ _ _ _ h _ _ _ := { h with }
  fault _ _ h := { h with }
  load _ _ _ h _ _ := { h with }
  store _ _ h _ := { h with }
  pass s h := by
    rw [passStage_eq]
    exact { h with }
  agen s u ea data h _ _ _ _ := by
    rw [State.intoMem2_eq]
    exact { h with }
  resolve _ _ taken h hb := h.resolved hb taken
  issue _ h := issueStage_keeps (fun _ _ _ _ h hu hc => h.place hu hc) h
  dispatch _ _ _ h hd _ hs := h.allocate hd hs
  fetch _ h := h.fetchStage
  finish s h := by
    rw [endCycle_eq]
    exact { h with }

/-- Settles O54: dispatch takes a branch only while none is unresolved, and the branch moves through the queue, L.BRU1 and
L.BRU2 until its resolution or a ROB reset. -/
theorem atMostOneUnresolvedBranch : Obligations.AtMostOneUnresolvedBranch := by
  unfold Obligations.AtMostOneUnresolvedBranch
  intro s t hst hb h
  exact (branchOk_preserved.step s t hb hst h).1

/-! ### The reorder buffer (O50) -/

theorem State.headEntry_retireHead (s : State) (rd : Nat) (e : RobEntry) :
    (s.retireHead rd e).headEntry = s.headEntry := by
  rw [s.retireHead_eq]; rfl

namespace State.RobOk

variable {s : State} (h : s.RobOk)
include h

theorem retireHead (rd : Nat) (e : RobEntry) : (s.retireHead rd e).RobOk := by
  rw [s.retireHead_eq]
  exact { h with }

/-- The reset of a window leaves one: it has at least one entry. -/
theorem robReset (a : Word) : (s.robReset a).RobOk := .reset (Nat.ne_zero_of_lt h.head)

theorem commitEffect {i : Instr} {e : RobEntry} {t : State} (he : s.headEntry = some e) (ht : CommitEffect i e s t) :
    t.RobOk := by
  have hr : ∀ rd, (s.retireHead rd e).pop.RobOk := fun rd =>
    (h.retireHead rd e).pop ((s.headEntry_retireHead rd e).trans he)
  cases ht with
  | producer rd => exact hr rd
  | store =>
    have hm : (s.memWrite e.ea e.result).RobOk := { h with }
    exact hm.pop he
  | storeFault => exact { h with }
  | plain => exact h.pop he
  | reset => exact (h.pop he).robReset _
  | jal rd => exact (hr rd).robReset _
  | halt => exact { h.pop he with }

/-- Dispatch allocates only where the buffer is not full (R111). -/
theorem allocate (pc : Word) {i : Instr} {ps : List Nat} (hs : s.stalls i ps = false) : (s.allocate pc i ps).RobOk := by
  rw [s.allocate_eq]
  exact { h.push (e := s.robEntryFor pc i ps) (State.stalls_false hs).1 with }

end State.RobOk

theorem robOk_preserved : Preserved State.RobOk where
  start _ h := { h with }
  commit _ _ _ h he _ hc := h.commitEffect he hc
  target _ _ _ _ h _ _ _ _ := { h with }
  mulWrite _ _ h _ := { h.upd _ _ with }
  mulPass _ h := { h with }
  mulStart _ _ _ h _ _ _ := { h with }
  int _ _ _ _ h _ _ _ := { h.upd _ _ with }
  fault _ _ h := { h with }
  load _ _ _ h _ _ := { h.upd _ _ with }
  store _ _ h _ := { h.upd _ _ with }
  pass s h := by
    rw [passStage_eq]
    exact { h with }
  agen s u ea data h _ _ _ _ := by
    rw [State.intoMem2_eq]
    exact { h with }
  resolve _ b taken h _ := by
    have hr := h.upd b.entry.rob (fun e => e.resolve b taken)
    cases taken <;> exact { hr with }
  issue _ h := issueStage_keeps (fun s c k u h _ _ => by
    have hr := h.upd u.rob (fun e => { e with memReady := true })
    cases c with
    | mem => exact { hr with }
    | _ => exact { h with }) h
  dispatch _ d _ h _ _ hs := h.allocate d.pc hs
  fetch s h := by
    rw [fetchStage_eq]
    exact { h with }
  finish s h := by
    rw [endCycle_eq]
    exact { h with }

/-- Settles O50: a commit pops the head or resets the buffer, dispatch allocates at the tail of a buffer that is not full, and
every other stage only rewrites fields of occupied entries. -/
theorem robStaysACircularWindow : Obligations.RobStaysACircularWindow := by
  unfold Obligations.RobStaysACircularWindow
  intro s t hst hr h
  exact (robOk_preserved.step s t hr hst h).1

/-! ### The speculative rename table (O51) -/

/-- Inside a cycle SRAT is RRAT with the mappings in flight laid over it, also after a HALT has retired: the table is
resynchronized only at the end of the cycle (R251). -/
structure State.RenameLive (s : State) : Prop extends s.RobOk where
  table : s.srat = replay s.rrat s.inFlight
  halt : s.haltRetired = true → s.halted = true

/-- What an entry maps. -/
def RobEntry.mapping (e : RobEntry) : Option Nat × Option Nat := (e.rd, e.pd)

namespace State.RenameLive

variable {s : State} (h : s.RenameLive)
include h

theorem robUpdate (i : Nat) {f : RobEntry → RobEntry} (hf : ∀ e, (f e).mapping = e.mapping) :
    (s.robUpdate i f).RenameLive where
  toRobOk := h.toRobOk.upd i f
  table := h.table.trans (replay_congr _ _ _ (s.inFlight_update i f RobEntry.mapping hf).symm)
  halt := h.halt

theorem finish (i : Nat) (r : Word) : (s.robUpdate i (fun e => e.finish r)).RenameLive := h.robUpdate i fun _ => rfl

theorem stageStore (i : Nat) (m : MemOp) : (s.robUpdate i (fun e => e.stageStore m)).RenameLive :=
  h.robUpdate i fun _ => rfl

theorem resolve (i : Nat) (b : BruOp) (taken : Bool) : (s.robUpdate i (fun e => e.resolve b taken)).RenameLive :=
  h.robUpdate i fun _ => rfl

theorem markReady (i : Nat) : (s.robUpdate i (fun e => { e with memReady := true })).RenameLive :=
  h.robUpdate i fun _ => rfl

/-- Retiring the oldest entry moves its mapping from the entries in flight into RRAT. -/
theorem retirePop {e : RobEntry} {rd : Nat} (he : s.headEntry = some e) (hd : e.rd = some rd) :
    (s.retireHead rd e).pop.RenameLive where
  toRobOk := (h.toRobOk.retireHead rd e).pop ((s.headEntry_retireHead rd e).trans he)
  table := by
    have hf : (s.retireHead rd e).pop.inFlight = s.pop.inFlight := by rw [s.retireHead_eq]; rfl
    have ht : (s.retireHead rd e).pop.srat = s.srat := by rw [s.retireHead_eq]; rfl
    rw [hf, ht, h.table, s.inFlight_pop e h.toRobOk he]
    cases hp : e.pd <;> simp [replay, State.retireHead, hd, hp]
  halt := by
    rw [s.retireHead_eq]
    exact h.halt

/-- An entry without a destination maps nothing. -/
theorem pop {e : RobEntry} (he : s.headEntry = some e) (hd : e.rd = none) : s.pop.RenameLive where
  toRobOk := h.toRobOk.pop he
  table := by
    have ht : s.pop.srat = replay s.rrat (e :: s.pop.inFlight) := (s.inFlight_pop e h.toRobOk he) ▸ h.table
    simpa [replay, hd] using ht
  halt := h.halt

theorem robReset (a : Word) : (s.robReset a).RenameLive where
  toRobOk := h.toRobOk.robReset a
  table := by rw [State.robReset_inFlight]; rfl
  halt := h.halt

theorem commitEffect {e : RobEntry} {t : State} (he : s.headEntry = some e) (ht : CommitEffect e.insn e s t) :
    t.RenameLive := by
  cases ht with
  | producer rd hd => exact h.retirePop he hd
  | store hd =>
    have hm : (s.memWrite e.ea e.result).RenameLive := { h with }
    exact hm.pop he hd
  | storeFault => exact { h with }
  | plain hd => exact h.pop he hd
  | reset hd => exact (h.pop he hd).robReset _
  | jal rd hd => exact (h.retirePop he hd).robReset _
  | halt hd => exact { h.pop he hd with halt := fun _ => rfl }

/-- Dispatch writes into SRAT the mapping of the entry it allocates. -/
theorem allocate (pc : Word) {i : Instr} {ps : List Nat} (hs : s.stalls i ps = false) :
    (s.allocate pc i ps).RenameLive := by
  have hf := s.inFlight_push (s.robEntryFor pc i ps) h.toRobOk (State.stalls_false hs).1
  have ht : (s.claimDest i).srat = replay s.rrat (s.push (s.robEntryFor pc i ps)).inFlight := by
    rw [hf, replay_append, ← h.table]
    unfold State.claimDest
    cases hd : i.dst <;> cases hp : s.destFor i <;> simp [replay, RobEntry.rd, State.robEntryFor, hd, hp]
  have hr := h.toRobOk.allocate pc hs
  rw [s.allocate_eq] at hr ⊢
  exact { hr with table := ht, halt := h.halt }

end State.RenameLive

theorem renameLive_commitKeeps : CommitKeeps State.RenameLive where
  start _ h := { h with halt := nofun }
  commit _ _ _ h he _ hc := h.commitEffect he hc

theorem renameLive_unitsKeep : UnitsKeep State.RenameLive where
  target _ _ _ _ h _ _ _ _ := { h with }
  mulWrite _ m h _ := { h.finish m.entry.rob m.prod with }
  mulPass _ h := { h with }
  mulStart _ _ _ h _ _ _ := { h with }
  int _ u r _ h _ _ _ := { h.finish u.rob r with }
  fault _ _ h := { h with }
  load _ m r h _ _ := { h.finish m.entry.rob r with }
  store _ m h _ := { h.stageStore m.entry.rob m with }
  pass s h := by
    rw [passStage_eq]
    exact { h with }
  agen s u ea data h _ _ _ _ := by
    rw [State.intoMem2_eq]
    exact { h with }
  resolve _ b taken h _ := by
    cases taken with
    | false => exact { h.resolve b.entry.rob b false with }
    | true => exact { h.resolve b.entry.rob b true with }

theorem renameLive_frontKeeps : FrontKeeps State.RenameLive where
  fault _ _ h := { h with }
  issue _ h := issueStage_keeps (fun s c k u h _ _ => by
    cases c with
    | mem => exact { h.markReady u.rob with }
    | _ => exact { h with }) h
  dispatch _ d _ h _ _ hs := h.allocate d.pc hs
  fetch s h := by
    rw [fetchStage_eq]
    exact { h with }

theorem State.RenameLive.renameOk {s : State} (h : s.RenameLive) : s.RenameOk := ⟨.inl h.table, h.halt⟩

/-- The end of a cycle in which a HALT retired reloads SRAT from RRAT, and the machine is halted (R248, R251). -/
theorem State.RenameLive.endCycle {s : State} (h : s.RenameLive) : (endCycle s).RenameOk := by
  unfold Machine.endCycle
  split
  · rename_i hh
    exact ⟨.inr ⟨h.halt hh, rfl⟩, h.halt⟩
  · exact h.renameOk

theorem renameOk_step {s t : State} (hst : s.stage = .dispatch) (hr : s.RobOk) (hn : s.RenameOk) (h : step s = .next t) :
    t.RenameOk := by
  have hh : s.halted = false := (step_next h).2.1
  have hs : s.RenameLive := { hr with table := hn.tables.resolve_right (by simp [hh]), halt := hn.halt }
  exact step_of_halves (fun a => beforeIssue_keeps renameLive_commitKeeps renameLive_unitsKeep s a hs hst)
    renameLive_frontKeeps (fun _ h => h.renameOk) (fun _ h => h.endCycle) h

theorem State.RenameOk.srat_eq_rrat {s : State} (h : s.RenameOk) (hc : s.count = 0) : s.srat = s.rrat := by
  rcases h.tables with h | ⟨_, h⟩
  · rw [h, s.inFlight_empty hc]; rfl
  · exact h

theorem endCycle_srat {s : State} (h : (endCycle s).haltRetired = true) : (endCycle s).srat = (endCycle s).rrat := by
  unfold endCycle at h ⊢
  split at h
  · rename_i hh
    rw [if_pos hh]; rfl
  · contradiction

/-- A cycle that records no fault runs to its end. -/
theorem step_ends {s t : State} (h : step s = .next t) (hf : t.fault = none) : ∃ a, t = endCycle a := by
  rcases andThen_next (step_next h).2.2 with ⟨_, hn⟩ | ⟨a, _, _, h2⟩
  · simp [hf] at hn
  · rcases andThen_next h2 with ⟨_, hn⟩ | ⟨b, _, _, h3⟩
    · simp [hf] at hn
    · injection h3 with h3
      exact ⟨_, h3.symm⟩

/-- Settles O51: commit moves a mapping from the window into RRAT, dispatch adds one to the window and to SRAT, and a reset
and the end of a cycle with a HALT copy RRAT. -/
theorem speculativeTableFollowsInFlightProducers : Obligations.SpeculativeTableFollowsInFlightProducers := by
  unfold Obligations.SpeculativeTableFollowsInFlightProducers
  refine ⟨fun s t hst hr hn h => renameOk_step hst hr hn h, fun s h hc => h.srat_eq_rrat hc, fun s t _ h hh hf => ?_⟩
  obtain ⟨a, rfl⟩ := step_ends h hf
  exact endCycle_srat hh

end Sys2Proof.Machine

/-! PROOF. The data memory (O46, O55): a commit writes it only where it retires a STORE or STR, one cell in range, and no stage
after commit writes it. -/

namespace Sys2Proof.Machine

/-! ### After commit -/

theorem memory_unitsKeep (Q : List (Nat × Word) → Nat → Prop) : UnitsKeep (fun s => Q s.dmem s.dmemSize) where
  target _ _ _ _ h _ _ _ _ := h
  mulWrite _ _ h _ := h
  mulPass _ h := h
  mulStart _ _ _ h _ _ _ := h
  int _ _ _ _ h _ _ _ := h
  fault _ _ h := h
  load _ _ _ h _ _ := h
  store _ _ h _ := h
  pass s h := by rw [passStage_eq]; exact h
  agen s u ea data h _ _ _ _ := by rw [State.intoMem2_eq]; exact h
  resolve _ b taken h _ := by cases taken <;> exact h

theorem memory_frontKeeps (Q : List (Nat × Word) → Nat → Prop) : FrontKeeps (fun s => Q s.dmem s.dmemSize) where
  fault _ _ h := h
  issue _ h := issueStage_keeps (P := fun s => Q s.dmem s.dmemSize) (fun _ c _ _ h _ _ => by cases c <;> exact h) h
  dispatch s d ps h _ _ _ := by rw [s.allocate_eq]; exact h
  fetch s h := by rw [fetchStage_eq]; exact h

/-- What the commit stage leaves true of the data memory is true of it after the step (R69). -/
theorem CommitKeeps.step_memory {P : State → Prop} (hP : CommitKeeps P) {Q : List (Nat × Word) → Nat → Prop}
    (hQ : ∀ u, P u → Q u.dmem u.dmemSize) {s t : State} (hs : P s) (hst : s.stage = .dispatch) (h : step s = .next t) :
    Q t.dmem t.dmemSize := by
  have hb : ∀ a, beforeIssue s = .next a → Q a.dmem a.dmemSize ∧ a.stage = .dispatch := fun a ha =>
    andThen_keeps (P := fun a => Q a.dmem a.dmemSize ∧ a.stage = .dispatch)
      (fun b hb => (hP.commitStage s b hs hst hb).imp_left (hQ b))
      (fun b v hb hv => (memory_unitsKeep Q).unitStages b v hb.1 hb.2 hv) ha
  exact step_of_halves (Q := fun a => Q a.dmem a.dmemSize) hb (memory_frontKeeps Q) (fun _ h => h)
    (fun a h => by rw [endCycle_eq]; exact h) h

/-! ### Commit -/

/-- A commit leaves the data memory or, for a memory instruction without a destination, writes one cell in range (R241). -/
theorem CommitEffect.memory {i : Instr} {e : RobEntry} {s t : State} (h : CommitEffect i e s t) :
    t.dmemSize = s.dmemSize ∧ (t.dmem = s.dmem ∨
      i.dst = none ∧ i.isMem = true ∧ s.inRange e.ea = true ∧ t.dmem = Mem.write s.dmem (s.cellOf e.ea) e.result) := by
  cases h with
  | producer rd => rw [s.retireHead_eq]; exact ⟨rfl, .inl rfl⟩
  | store hd hm hr => exact ⟨rfl, .inr ⟨hd, hm, hr, rfl⟩⟩
  | storeFault => exact ⟨rfl, .inl rfl⟩
  | plain => exact ⟨rfl, .inl rfl⟩
  | reset => exact ⟨rfl, .inl rfl⟩
  | jal rd => rw [s.retireHead_eq]; exact ⟨rfl, .inl rfl⟩
  | halt => exact ⟨rfl, .inl rfl⟩

/-- A commit adds no entry to the ROB and rewrites none: it pops the head or empties the buffer. -/
theorem CommitEffect.mem_rob {i : Instr} {e x : RobEntry} {s t : State} (h : CommitEffect i e s t)
    (hx : some x ∈ t.rob) : some x ∈ s.rob := by
  have hpop : ∀ u : State, u.rob = s.rob → some x ∈ u.pop.rob → some x ∈ s.rob := fun u hu hx =>
    hu ▸ (mem_of_mem_set hx).resolve_right nofun
  cases h with
  | producer rd => exact hpop _ (by rw [s.retireHead_eq]) hx
  | store => exact hpop _ rfl hx
  | storeFault => exact hx
  | plain => exact hpop _ rfl hx
  | reset => exact (not_mem_map_none _ x hx).elim
  | jal rd => exact (not_mem_map_none _ x hx).elim
  | halt => exact hpop _ rfl hx

/-! ### Only committed stores write (O46) -/

/-- The memory instructions without a destination are STORE and STR. -/
theorem isMem_false_of_not_store {i : Instr} (h : ∀ (a b c : Nat) (w : Word), i ≠ .store a b w ∧ i ≠ .str a b c)
    (hd : i.dst = none) : i.isMem = false := by
  cases i with
  | store a b w => simpa using h a b 0 w
  | str a b c => simpa using h a b c 0
  | load => cases hd
  | ldr => cases hd
  | _ => rfl

/-- The data memory is `m`, and no finished entry of the ROB is a memory instruction without a destination. -/
structure State.MemoryHeld (m : List (Nat × Word)) (s : State) : Prop where
  dmem : s.dmem = m
  noStore : ∀ e, some e ∈ s.rob → e.resultValid = true → e.insn.dst = none → e.insn.isMem = false

theorem memoryHeld_commitKeeps (m : List (Nat × Word)) : CommitKeeps (State.MemoryHeld m) where
  start _ h := { h with }
  commit s e t h he hv hc := by
    refine ⟨?_, fun x hx => h.noStore x (hc.mem_rob hx)⟩
    obtain ⟨-, hm | ⟨hd, hm, -⟩⟩ := hc.memory
    · exact hm.trans h.dmem
    · simp [h.noStore e (State.mem_rob_of_headEntry he) hv hd] at hm

/-- Settles O46: the entries that commit passes over were finished when the cycle began, so none of them is a STORE or STR, and
no stage after commit writes memory. -/
theorem memoryWrittenOnlyByCommittedStores : Obligations.MemoryWrittenOnlyByCommittedStores := by
  unfold Obligations.MemoryWrittenOnlyByCommittedStores
  intro s t hst h hn
  have hs : s.MemoryHeld s.dmem := ⟨rfl, fun e he hv => isMem_false_of_not_store (hn e he hv)⟩
  exact (memoryHeld_commitKeeps s.dmem).step_memory (Q := fun m _ => m = s.dmem) (fun _ hu => hu.dmem) hs hst h

/-! ### The canonical form (O55) -/

theorem State.cellOf_lt {s : State} {ea : Word} (h : s.inRange ea = true) : s.cellOf ea < s.dmemSize := by
  simp only [State.inRange, Bool.and_eq_true, decide_eq_true_eq] at h
  unfold State.cellOf
  omega

theorem memOk_commitKeeps : CommitKeeps State.MemOk where
  start _ h := { h with }
  commit s e t h _ _ hc := by
    obtain ⟨hz, hm | ⟨-, -, hr, hm⟩⟩ := hc.memory
    · exact ⟨hm ▸ h.canonical, by rw [hm, hz]; exact h.range⟩
    · refine ⟨hm ▸ Mem.wf_write h.canonical _ _, fun c hcell => ?_⟩
      rw [hz]
      rcases Mem.mem_write (hm ▸ hcell) with rfl | hcell
      · exact State.cellOf_lt hr
      · exact h.range c hcell

/-- Settles O55: the range check of a store's commit admits only cells below DMEM_SIZE, the write keeps the canonical form, and
no stage after commit writes memory. -/
theorem memoryStaysCanonical : Obligations.MemoryStaysCanonical := by
  unfold Obligations.MemoryStaysCanonical
  intro s t hst hs h
  obtain ⟨hw, hr⟩ := memOk_commitKeeps.step_memory (Q := fun m n => Mem.wf m ∧ ∀ c ∈ m, c.1 < n)
    (fun _ hu => ⟨hu.canonical, hu.range⟩) hs hst h
  exact ⟨hw, hr⟩

end Sys2Proof.Machine

/-! PROOF. The instructions in flight (O52): for fixed bounds on registers and immediates every stage keeps them well formed;
that the tables, whose size is the bound on registers, keep their size is the law of the shape (O47). -/

namespace Sys2Proof.Machine

/-- The entry's instruction is well formed for `n` registers and `w` bits, and it has a physical destination exactly if its
instruction is a producer (R87, R89, R112). -/
def RobEntry.Wf (n w : Nat) (e : RobEntry) : Prop := e.insn.wf n w = true ∧ e.pd.isSome = e.insn.producer

/-- `State.InsnsOk` for bounds `n` and `w` that do not change with the state. -/
structure State.InsnsWf (n w : Nat) (s : State) : Prop where
  store : ∀ i ∈ s.imem, i.wf n w = true
  lf : ∀ d, s.lf = some d → d.insn.wf n w = true
  ld : ∀ d, s.ld = some d → d.insn.wf n w = true
  rob : ∀ e, some e ∈ s.rob → e.Wf n w

theorem State.insnsOk_iff (s : State) :
    s.InsnsOk ↔ s.srat.length = s.rrat.length ∧ s.InsnsWf s.rrat.length s.xlen :=
  ⟨fun h => ⟨h.tables, { h with }⟩, fun ⟨ht, h⟩ => { h with tables := ht }⟩

/-- A dispatch that does not stall gives a producer, and no other instruction, a physical destination (R111, R112). -/
theorem State.destFor_isSome {s : State} {i : Instr} {ps : List Nat} (h : s.stalls i ps = false) :
    (s.destFor i).isSome = i.producer := by
  unfold State.destFor
  split
  · rename_i hp
    obtain ⟨pd, hpd⟩ := (State.stalls_false h).2.1 hp
    rw [hpd, hp]; rfl
  · rename_i hp
    rw [Bool.not_eq_true] at hp
    rw [hp]; rfl

/-- A property of the ROB entries that a rewriting keeps is kept by rewriting one entry. -/
theorem State.forall_mem_robUpdate {s : State} {p : RobEntry → Prop} {f : RobEntry → RobEntry} (i : Nat)
    (hs : ∀ e, some e ∈ s.rob → p e) (hf : ∀ e, p e → p (f e)) : ∀ e, some e ∈ (s.robUpdate i f).rob → p e := by
  intro e he
  refine forall_mem_modify (p := fun o => ∀ e, o = some e → p e) (fun o ho e he => hs e (he ▸ ho))
    (fun o ho e he => ?_) (some e) he e rfl
  obtain ⟨e', rfl, rfl⟩ := Option.map_eq_some_iff.1 he
  exact hf e' (ho e' rfl)

namespace State.InsnsWf

variable {n w : Nat} {s : State} (h : s.InsnsWf n w)
include h

/-- The units and the issue stage rewrite other fields of an entry than its instruction and its destination. -/
theorem robUpdate (i : Nat) {f : RobEntry → RobEntry} (hf : ∀ e, e.Wf n w → (f e).Wf n w) :
    (s.robUpdate i f).InsnsWf n w :=
  { h with rob := State.forall_mem_robUpdate i h.rob hf }

theorem finish (i : Nat) (r : Word) : (s.robUpdate i (fun e => e.finish r)).InsnsWf n w := h.robUpdate i fun _ he => he

theorem stageStore (i : Nat) (m : MemOp) : (s.robUpdate i (fun e => e.stageStore m)).InsnsWf n w :=
  h.robUpdate i fun _ he => he

/-- A commit adds no instruction; a ROB reset drops those in flight and leaves the store. -/
theorem commitEffect {i : Instr} {e : RobEntry} {t : State} (ht : CommitEffect i e s t) : t.InsnsWf n w := by
  have hrob : ∀ x, some x ∈ t.rob → x.Wf n w := fun x hx => h.rob x (ht.mem_rob hx)
  obtain ⟨u, hu, rfl | rfl⟩ := ht.writes
  · rw [hu.eq]
    exact { h with rob := hrob }
  · rw [hu.eq] at hrob ⊢
    exact { h with lf := forall_of_none, ld := forall_of_none, rob := hrob }

theorem resolved (b : BruOp) (taken : Bool) : (resolved s b taken).InsnsWf n w := by
  have hr : (s.robUpdate b.entry.rob (fun e => e.resolve b taken)).InsnsWf n w := h.robUpdate _ fun _ he => he
  cases taken with
  | false => exact { hr with }
  | true => exact { hr with lf := forall_of_none, ld := forall_of_none }

theorem place (c : FuClass) (u : IqEntry) : (s.place c u).InsnsWf n w := by
  cases c with
  | mem =>
    have hr : (s.robUpdate u.rob (fun e => { e with memReady := true })).InsnsWf n w := h.robUpdate _ fun _ he => he
    exact { hr with }
  | _ => exact { h with }

/-- Dispatch moves the instruction of the decode latch into a ROB entry. -/
theorem allocate {pc : Word} {i : Instr} {ps : List Nat} (hi : i.wf n w = true) (hs : s.stalls i ps = false) :
    (s.allocate pc i ps).InsnsWf n w := by
  have he : (s.robEntryFor pc i ps).Wf n w := ⟨hi, State.destFor_isSome hs⟩
  rw [s.allocate_eq]
  exact { h with
    ld := forall_of_none
    rob := fun x hx => (mem_of_mem_set hx).elim (h.rob x) (forall_of_some he x) }

theorem advanceFront : s.advanceFront.InsnsWf n w := by
  unfold State.advanceFront
  split
  · exact { h with ld := h.lf, lf := forall_of_none }
  · exact h

/-- Fetch takes its instruction from the store. -/
theorem fetchStage : (fetchStage s).InsnsWf n w := by
  unfold Machine.fetchStage
  split
  · exact h
  · split
    · exact h.advanceFront
    · split
      · exact h
      · rename_i i hi
        have hf : State.InsnsWf n w { s with lf := some { pc := s.pc, insn := i }, pc := s.nextPc s.pc } :=
          { h with lf := forall_of_some (h.store i (State.mem_imem_of_ifetch hi)) }
        exact hf.advanceFront

end State.InsnsWf

theorem insnsWf_preserved (n w : Nat) : Preserved (State.InsnsWf n w) where
  start _ h := { h with }
  commit _ _ _ h _ _ hc := h.commitEffect hc
  target _ _ _ _ h _ _ _ _ := { h with }
  mulWrite _ m h _ := { h.finish m.entry.rob m.prod with }
  mulPass _ h := { h with }
  mulStart _ _ _ h _ _ _ := { h with }
  int _ u r _ h _ _ _ := { h.finish u.rob r with }
  fault _ _ h := { h with }
  load _ m r h _ _ := { h.finish m.entry.rob r with }
  store _ m h _ := { h.stageStore m.entry.rob m with }
  pass s h := by
    rw [passStage_eq]
    exact { h with }
  agen s u ea data h _ _ _ _ := by
    rw [State.intoMem2_eq]
    exact { h with }
  resolve _ b taken h _ := h.resolved b taken
  issue _ h := issueStage_keeps (fun s c k u h _ _ =>
    have hk : State.InsnsWf n w { s with iq := s.iq.set k none } := { h with }
    hk.place c u) h
  dispatch _ d _ h hd _ hs := h.allocate (h.ld d hd) hs
  fetch _ h := h.fetchStage
  finish s h := by
    rw [endCycle_eq]
    exact { h with }

/-- Settles O52: fetch, the front end and dispatch move an instruction of the store on unchanged, and dispatch, which does not
stall, gives a destination to the producers; the bounds are those of the state before, since the step keeps the shape (O47). -/
theorem instructionsInFlightNameLogicalRegisters : Obligations.InstructionsInFlightNameLogicalRegisters := by
  unfold Obligations.InstructionsInFlightNameLogicalRegisters
  intro s t hst hs h
  obtain ⟨htab, hwf⟩ := s.insnsOk_iff.1 hs
  have hsh : SameShape s t := ((sameShape_preserved htab).step s t (.refl s) hst h).1
  have ht : t.InsnsWf s.rrat.length s.xlen := ((insnsWf_preserved _ _).step s t hwf hst h).1
  refine t.insnsOk_iff.2 ⟨?_, ?_⟩
  · rw [hsh.srat, hsh.rrat, htab]
  · rw [hsh.rrat, hsh.xlen]
    exact ht

end Sys2Proof.Machine

/-! PROOF. The decoder (O3, O4, O5) and the tables of R84 and R88 (O6): a format reads its own fields, so records that agree on
them decode alike, and a record that is accepted spells the instruction it decodes to, field by field. -/

namespace Sys2Proof

/-! ### A used field that is accepted (R80, R87) -/

theorem takeReg_eq_ok {n : Nat} {f : RegField} {o : Option Nat} {v : Nat} :
    takeReg n f o = .ok v ↔ o = some v ∧ v < n := by
  cases o with
  | none => simp [takeReg]
  | some a =>
    by_cases ha : a < n
    · simp only [takeReg, ha, if_true, Except.ok.injEq, Option.some.injEq]
      exact ⟨fun h => ⟨h, h ▸ ha⟩, fun h => h.1⟩
    · simp only [takeReg, ha, if_false, reduceCtorEq, Option.some.injEq, false_iff]
      rintro ⟨rfl, hv⟩
      exact ha hv

theorem takeImm_eq_ok {w : Nat} {v x : Word} : takeImm w v = .ok x ↔ v = x ∧ isWord w x := by
  by_cases hv : isWord w v
  · simp only [takeImm, hv, if_true, Except.ok.injEq]
    exact ⟨fun h => ⟨h, h ▸ hv⟩, fun h => h.1⟩
  · simp only [takeImm, hv, if_false, reduceCtorEq, false_iff]
    rintro ⟨rfl, hx⟩
    exact hv hx

/-- A sequence of checks is passed only where its first check is. -/
theorem except_bind_eq_ok {ε α β : Type} {x : Except ε α} {f : α → Except ε β} {b : β} :
    (x >>= f) = .ok b ↔ ∃ a, x = .ok a ∧ f a = .ok b := by
  cases x <;> simp [bind, Except.bind]

/-! ### What an accepted record says (O4, O5) -/

/-- The opcodes whose format names an immediate (R82, R83). -/
def immOpcodes : List Nat := [2, 3, 9, 10, 11, 14, 15, 16, 17]

/-- The record `r` has the opcode of `i` and every field that the record of `i` names, in range, and `i` is well formed. -/
structure Record.Spells (n w : Nat) (r : Record) (i : Instr) : Prop where
  wf : i.wf n w = true
  opcode : r.opcode = (encodeRecord i).opcode
  rd : ∀ a, (encodeRecord i).rd = some a → r.rd = some a ∧ a < n
  rs1 : ∀ a, (encodeRecord i).rs1 = some a → r.rs1 = some a ∧ a < n
  rs2 : ∀ a, (encodeRecord i).rs2 = some a → r.rs2 = some a ∧ a < n
  rs3 : ∀ a, (encodeRecord i).rs3 = some a → r.rs3 = some a ∧ a < n
  imm : r.opcode.toNat ∈ immOpcodes → r.imm = (encodeRecord i).imm ∧ isWord w r.imm

section

variable {n w : Nat} {r : Record} {i : Instr} {op : BitVec 5}

/-- One lemma per format: `he` and `hw` are what the instructions of the format have in common, the shape of their record and the
bounds on its fields. -/
theorem decodeRRR_spells {mk : Nat → Nat → Nat → Instr} (ho : r.opcode = op) (h : decodeRRR n r mk = .ok i)
    (hi : op.toNat ∉ immOpcodes) (he : ∀ a b c, encodeRecord (mk a b c) = ⟨op, some a, some b, some c, none, 0⟩)
    (hw : ∀ a b c, (mk a b c).wf n w = (decide (a < n) && decide (b < n) && decide (c < n))) : r.Spells n w i := by
  simp only [decodeRRR, except_bind_eq_ok, takeReg_eq_ok] at h
  obtain ⟨a, ⟨ha, han⟩, b, ⟨hb, hbn⟩, c, ⟨hc, hcn⟩, ⟨⟩⟩ := h
  constructor <;> simp_all

theorem decodeSRR_spells {mk : Nat → Nat → Nat → Instr} (ho : r.opcode = op) (h : decodeSRR n r mk = .ok i)
    (hi : op.toNat ∉ immOpcodes) (he : ∀ a b c, encodeRecord (mk a b c) = ⟨op, none, some a, some b, some c, 0⟩)
    (hw : ∀ a b c, (mk a b c).wf n w = (decide (a < n) && decide (b < n) && decide (c < n))) : r.Spells n w i := by
  simp only [decodeSRR, except_bind_eq_ok, takeReg_eq_ok] at h
  obtain ⟨a, ⟨ha, han⟩, b, ⟨hb, hbn⟩, c, ⟨hc, hcn⟩, ⟨⟩⟩ := h
  constructor <;> simp_all

theorem decodeRRI_spells {mk : Nat → Nat → Word → Instr} (ho : r.opcode = op) (h : decodeRRI n w r mk = .ok i)
    (he : ∀ a b v, encodeRecord (mk a b v) = ⟨op, some a, some b, none, none, v⟩)
    (hw : ∀ a b v, (mk a b v).wf n w = (decide (a < n) && decide (b < n) && decide (isWord w v))) : r.Spells n w i := by
  simp only [decodeRRI, except_bind_eq_ok, takeReg_eq_ok, takeImm_eq_ok] at h
  obtain ⟨a, ⟨ha, han⟩, b, ⟨hb, hbn⟩, v, ⟨hv, hvw⟩, ⟨⟩⟩ := h
  constructor <;> simp_all

theorem decodeSRI_spells {mk : Nat → Nat → Word → Instr} (ho : r.opcode = op) (h : decodeSRI n w r mk = .ok i)
    (he : ∀ a b v, encodeRecord (mk a b v) = ⟨op, none, some a, some b, none, v⟩)
    (hw : ∀ a b v, (mk a b v).wf n w = (decide (a < n) && decide (b < n) && decide (isWord w v))) : r.Spells n w i := by
  simp only [decodeSRI, except_bind_eq_ok, takeReg_eq_ok, takeImm_eq_ok] at h
  obtain ⟨a, ⟨ha, han⟩, b, ⟨hb, hbn⟩, v, ⟨hv, hvw⟩, ⟨⟩⟩ := h
  constructor <;> simp_all

theorem decodeRI_spells {mk : Nat → Word → Instr} (ho : r.opcode = op) (h : decodeRI n w r mk = .ok i)
    (he : ∀ a v, encodeRecord (mk a v) = ⟨op, some a, none, none, none, v⟩)
    (hw : ∀ a v, (mk a v).wf n w = (decide (a < n) && decide (isWord w v))) : r.Spells n w i := by
  simp only [decodeRI, except_bind_eq_ok, takeReg_eq_ok, takeImm_eq_ok] at h
  obtain ⟨a, ⟨ha, han⟩, v, ⟨hv, hvw⟩, ⟨⟩⟩ := h
  constructor <;> simp_all

theorem decodeJI_spells {mk : Nat → Word → Instr} (ho : r.opcode = op) (h : decodeJI n w r mk = .ok i)
    (he : ∀ a v, encodeRecord (mk a v) = ⟨op, none, some a, none, none, v⟩)
    (hw : ∀ a v, (mk a v).wf n w = (decide (a < n) && decide (isWord w v))) : r.Spells n w i := by
  simp only [decodeJI, except_bind_eq_ok, takeReg_eq_ok, takeImm_eq_ok] at h
  obtain ⟨a, ⟨ha, han⟩, v, ⟨hv, hvw⟩, ⟨⟩⟩ := h
  constructor <;> simp_all

theorem decodeI_spells {mk : Word → Instr} (ho : r.opcode = op) (h : decodeI w r mk = .ok i)
    (he : ∀ v, encodeRecord (mk v) = ⟨op, none, none, none, none, v⟩)
    (hw : ∀ v, (mk v).wf n w = decide (isWord w v)) : r.Spells n w i := by
  simp only [decodeI, except_bind_eq_ok, takeImm_eq_ok] at h
  obtain ⟨v, ⟨hv, hvw⟩, ⟨⟩⟩ := h
  constructor <;> simp_all

/-- The format N of NOP and HALT names no field. -/
theorem plain_spells {j : Instr} (ho : r.opcode = op) (h : (.ok j : Except DecodeError Instr) = .ok i)
    (hi : op.toNat ∉ immOpcodes) (he : encodeRecord j = ⟨op, none, none, none, none, 0⟩) (hw : j.wf n w = true) :
    r.Spells n w i := by
  cases h
  constructor <;> simp_all

/-- Whatever the decoder accepts, it reads from the fields that the format of the opcode names (R83, R87). -/
theorem decode_spells (h : decode n w r = .ok i) : r.Spells n w i := by
  unfold decode at h
  split at h <;> rename_i ho
  · exact decodeRRR_spells (BitVec.eq_of_toNat_eq (y := 0) ho) h (by decide) (fun _ _ _ => rfl) (fun _ _ _ => rfl)
  · exact decodeRRR_spells (BitVec.eq_of_toNat_eq (y := 1) ho) h (by decide) (fun _ _ _ => rfl) (fun _ _ _ => rfl)
  · exact decodeRRI_spells (BitVec.eq_of_toNat_eq (y := 2) ho) h (fun _ _ _ => rfl) (fun _ _ _ => rfl)
  · exact decodeRRI_spells (BitVec.eq_of_toNat_eq (y := 3) ho) h (fun _ _ _ => rfl) (fun _ _ _ => rfl)
  · exact decodeRRR_spells (BitVec.eq_of_toNat_eq (y := 4) ho) h (by decide) (fun _ _ _ => rfl) (fun _ _ _ => rfl)
  · exact decodeRRR_spells (BitVec.eq_of_toNat_eq (y := 5) ho) h (by decide) (fun _ _ _ => rfl) (fun _ _ _ => rfl)
  · exact decodeRRR_spells (BitVec.eq_of_toNat_eq (y := 6) ho) h (by decide) (fun _ _ _ => rfl) (fun _ _ _ => rfl)
  · exact decodeRRR_spells (BitVec.eq_of_toNat_eq (y := 7) ho) h (by decide) (fun _ _ _ => rfl) (fun _ _ _ => rfl)
  · exact decodeRRR_spells (BitVec.eq_of_toNat_eq (y := 8) ho) h (by decide) (fun _ _ _ => rfl) (fun _ _ _ => rfl)
  · exact decodeRI_spells (BitVec.eq_of_toNat_eq (y := 9) ho) h (fun _ _ => rfl) (fun _ _ => rfl)
  · exact decodeRRI_spells (BitVec.eq_of_toNat_eq (y := 10) ho) h (fun _ _ _ => rfl) (fun _ _ _ => rfl)
  · exact decodeSRI_spells (BitVec.eq_of_toNat_eq (y := 11) ho) h (fun _ _ _ => rfl) (fun _ _ _ => rfl)
  · exact decodeRRR_spells (BitVec.eq_of_toNat_eq (y := 12) ho) h (by decide) (fun _ _ _ => rfl) (fun _ _ _ => rfl)
  · exact decodeSRR_spells (BitVec.eq_of_toNat_eq (y := 13) ho) h (by decide) (fun _ _ _ => rfl) (fun _ _ _ => rfl)
  · exact decodeJI_spells (BitVec.eq_of_toNat_eq (y := 14) ho) h (fun _ _ => rfl) (fun _ _ => rfl)
  · exact decodeRRI_spells (BitVec.eq_of_toNat_eq (y := 15) ho) h (fun _ _ _ => rfl) (fun _ _ _ => rfl)
  · exact decodeI_spells (BitVec.eq_of_toNat_eq (y := 16) ho) h (fun _ => rfl) (fun _ => rfl)
  · exact decodeI_spells (BitVec.eq_of_toNat_eq (y := 17) ho) h (fun _ => rfl) (fun _ => rfl)
  · exact plain_spells (BitVec.eq_of_toNat_eq (y := 18) ho) h (by decide) rfl rfl
  · exact plain_spells (BitVec.eq_of_toNat_eq (y := 19) ho) h (by decide) rfl rfl
  · cases h

end

/-! ### Records that the decoder refuses (O4) -/

/-- The refusal of an unknown opcode (R82). -/
theorem decode_unknownOpcode (n w : Nat) {r : Record} (h : 20 ≤ r.opcode.toNat) :
    decode n w r = .error (.unknownOpcode r.opcode) := by
  unfold decode
  split
  case h_21 => rfl
  all_goals omega

/-- The record of an instruction has the register fields that the format of its opcode names (R83). -/
theorem exists_rd {i : Instr} (h : (encodeRecord i).opcode.toNat ∈ [0, 1, 2, 3, 4, 5, 6, 7, 8, 9, 10, 12, 15]) :
    ∃ a, (encodeRecord i).rd = some a := by
  cases i <;> simp_all [encodeRecord]

theorem exists_rs1 {i : Instr} (h : (encodeRecord i).opcode.toNat ∈ [0, 1, 2, 3, 4, 5, 6, 7, 8, 10, 11, 12, 13, 14, 15]) :
    ∃ a, (encodeRecord i).rs1 = some a := by
  cases i <;> simp_all [encodeRecord]

theorem exists_rs2 {i : Instr} (h : (encodeRecord i).opcode.toNat ∈ [0, 1, 4, 5, 6, 7, 8, 11, 12, 13]) :
    ∃ a, (encodeRecord i).rs2 = some a := by
  cases i <;> simp_all [encodeRecord]

theorem exists_rs3 {i : Instr} (h : (encodeRecord i).opcode.toNat = 13) : ∃ a, (encodeRecord i).rs3 = some a := by
  cases i <;> simp_all [encodeRecord]

/-- A field that is used and accepted is present and in range, so not absent or out of range. -/
theorem false_of_bad_field {n : Nat} {used given : Option Nat} (hu : ∃ a, used = some a)
    (hs : ∀ a, used = some a → given = some a ∧ a < n) (hv : ∀ v, given = some v → n ≤ v) : False := by
  obtain ⟨a, ha⟩ := hu
  obtain ⟨hg, hlt⟩ := hs a ha
  exact hlt.not_ge (hv a hg)

/-- Settles O4: a record that is accepted spells its instruction, so each field that the opcode uses is present and in range. -/
theorem illFormedRecordsAreRefused : Obligations.IllFormedRecordsAreRefused := by
  unfold Obligations.IllFormedRecordsAreRefused
  intro n w r
  refine ⟨decode_unknownOpcode n w, fun ho hv i hi => ?_, fun ho hv i hi => ?_, fun ho hv i hi => ?_,
    fun ho hv i hi => ?_, fun ho hv i hi => ?_⟩
  all_goals have hs := decode_spells hi
  · exact false_of_bad_field (exists_rd (hs.opcode ▸ ho)) hs.rd hv
  · exact false_of_bad_field (exists_rs1 (hs.opcode ▸ ho)) hs.rs1 hv
  · exact false_of_bad_field (exists_rs2 (hs.opcode ▸ ho)) hs.rs2 hv
  · exact false_of_bad_field (exists_rs3 (hs.opcode ▸ ho)) hs.rs3 hv
  · exact (hs.imm ho).2.not_ge hv

/-! ### The key word of a decoded instruction (O5) -/

theorem packKey_mod {op : Nat} (h : op < 32) (rd rs1 rs2 rs3 : Nat) : packKey op rd rs1 rs2 rs3 % 32 = op := by
  unfold packKey
  omega

/-- The low five bits of the key word are the opcode (R91). -/
theorem encodeKey_mod (i : Instr) : encodeKey i % 32 = (encodeRecord i).opcode.toNat := by
  cases i <;> exact packKey_mod (by decide) _ _ _ _

/-- Settles O5: the instruction that a record spells is well formed and has its opcode, and so has the key word. -/
theorem decodedInstructionIsWellFormed : Obligations.DecodedInstructionIsWellFormed := by
  unfold Obligations.DecodedInstructionIsWellFormed
  intro n w r i h
  have hs := decode_spells h
  exact ⟨hs.wf, (encodeKey_mod i).trans (congrArg BitVec.toNat hs.opcode.symm)⟩

/-! ### Unused fields (O3) -/

section

variable (n w : Nat) {r q : Record}

/-- A format reads its own fields of the record, and nothing else. -/
theorem decodeRRR_congr (hd : r.rd = q.rd) (h1 : r.rs1 = q.rs1) (h2 : r.rs2 = q.rs2) :
    decodeRRR n r = decodeRRR n q := by
  unfold decodeRRR
  rw [hd, h1, h2]

theorem decodeRRI_congr (hd : r.rd = q.rd) (h1 : r.rs1 = q.rs1) (hi : r.imm = q.imm) :
    decodeRRI n w r = decodeRRI n w q := by
  unfold decodeRRI
  rw [hd, h1, hi]

theorem decodeRI_congr (hd : r.rd = q.rd) (hi : r.imm = q.imm) : decodeRI n w r = decodeRI n w q := by
  unfold decodeRI
  rw [hd, hi]

theorem decodeSRI_congr (h1 : r.rs1 = q.rs1) (h2 : r.rs2 = q.rs2) (hi : r.imm = q.imm) :
    decodeSRI n w r = decodeSRI n w q := by
  unfold decodeSRI
  rw [h1, h2, hi]

theorem decodeSRR_congr (h1 : r.rs1 = q.rs1) (h2 : r.rs2 = q.rs2) (h3 : r.rs3 = q.rs3) :
    decodeSRR n r = decodeSRR n q := by
  unfold decodeSRR
  rw [h1, h2, h3]

theorem decodeJI_congr (h1 : r.rs1 = q.rs1) (hi : r.imm = q.imm) : decodeJI n w r = decodeJI n w q := by
  unfold decodeJI
  rw [h1, hi]

theorem decodeI_congr (hi : r.imm = q.imm) : decodeI w r = decodeI w q := by
  unfold decodeI
  rw [hi]

end

/-- Settles O3: the opcode chooses the format, and a format reads only its own fields. -/
theorem decodeIgnoresUnusedFields : Obligations.DecodeIgnoresUnusedFields := by
  unfold Obligations.DecodeIgnoresUnusedFields
  intro n w r q hop
  unfold decode
  rw [← hop]
  simp only [List.mem_cons, List.not_mem_nil, or_false]
  refine ⟨fun ho hd h1 h2 => ?_, fun ho hd h1 hi => ?_, fun ho hd hi => ?_, fun ho h1 h2 hi => ?_,
    fun ho h1 h2 h3 => ?_, fun ho h1 hi => ?_, fun ho hi => ?_, fun ho => ?_⟩
  · rcases ho with ho | ho | ho | ho | ho | ho | ho | ho <;> simp only [ho, decodeRRR_congr n hd h1 h2]
  · rcases ho with ho | ho | ho | ho <;> simp only [ho, decodeRRI_congr n w hd h1 hi]
  · simp only [ho, decodeRI_congr n w hd hi]
  · simp only [ho, decodeSRI_congr n w h1 h2 hi]
  · simp only [ho, decodeSRR_congr n h1 h2 h3]
  · simp only [ho, decodeJI_congr n w h1 hi]
  · rcases ho with ho | ho <;> simp only [ho, decodeI_congr w hi]
  · rcases ho with ho | ho <;> simp only [ho]

/-! ### The tables of the opcodes (O6) -/

theorem Instr.ctl_iff (i : Instr) : i.ctl = true ↔ i.cls = some .branch := beq_iff_eq

theorem Instr.isMem_iff (i : Instr) : i.isMem = true ↔ i.cls = some .mem := beq_iff_eq

theorem Instr.producer_iff (i : Instr) : i.producer = true ↔ ∃ r, i.dst = some r := Option.isSome_iff_exists

/-- Settles O6: each row is read off the tables of the sources, the destination, the class and the Z column. -/
theorem opcodeAttributes : Obligations.OpcodeAttributes := by
  unfold Obligations.OpcodeAttributes
  intro rd rs1 rs2 rs3 imm
  refine ⟨?_, ?_, ?_, ?_, ?_, ?_, ?_, ?_, ?_, ?_, ?_, ?_, ?_, fun i => ⟨i.ctl_iff, i.isMem_iff, i.producer_iff⟩⟩
  all_goals simp [Instr.srcs, Instr.dst, Instr.cls, Machine.writesZ]

end Sys2Proof

/-! PROOF. The free list (O53): which slots are busy after each update of the physical registers, which slots are accounted for
after each update of the retirement table and the window, and that the two agree after every stage. -/

namespace Sys2Proof.Machine

/-! ### The busy slots -/

/-- Slot `p` exists and is busy. -/
def BusyAt (prf : List PhysReg) (p : Nat) : Prop := ∃ r, prf[p]? = some r ∧ r.busy = true

/-- A slot is free after the update of one slot by `f` as before it, but for that slot. -/
theorem busyAt_modify (prf : List PhysReg) (q p : Nat) (f : PhysReg → PhysReg) :
    BusyAt (prf.modify q f) p ↔ ∃ r, prf[p]? = some r ∧ (if q = p then f r else r).busy = true := by
  simp only [BusyAt, List.getElem?_modify, Option.map_eq_map, Option.map_eq_some_iff]
  constructor
  · rintro ⟨_, ⟨r, hr, rfl⟩, hb⟩
    exact ⟨r, hr, by split at hb <;> simp_all⟩
  · rintro ⟨r, hr, hb⟩
    exact ⟨_, ⟨r, hr, rfl⟩, by split at hb <;> simp_all⟩

theorem busyAt_freeSlot (prf : List PhysReg) (o : Option Nat) (p : Nat) :
    BusyAt (freeSlot prf o) p ↔ BusyAt prf p ∧ p ∉ o.toList := by
  cases o with
  | none => simp [freeSlot]
  | some q =>
    simp only [freeSlot, busyAt_modify, Option.mem_toList]
    by_cases hq : q = p <;> simp [hq, BusyAt]

theorem busyAt_installResult (prf : List PhysReg) (q : Nat) (v : Word) (p : Nat) :
    BusyAt (installResult prf q v) p ↔ BusyAt prf p := by
  simp only [installResult, busyAt_modify]
  by_cases hq : q = p <;> simp [hq, BusyAt]

theorem busyAt_claimSlot {prf : List PhysReg} {q : Nat} (hq : q < prf.length) (p : Nat) :
    BusyAt (claimSlot prf q) p ↔ BusyAt prf p ∨ p = q := by
  simp only [claimSlot, busyAt_modify]
  by_cases h : q = p
  · subst h
    simp [hq]
  · simp [h, Ne.symm h, BusyAt]

/-- The physical destinations of a list of entries. -/
def dests (es : List RobEntry) : List Nat := es.filterMap (fun e => e.pd)

theorem busyAt_freeDests (es : List RobEntry) (p : Nat) : ∀ prf : List PhysReg,
    BusyAt (freeDests prf es) p ↔ BusyAt prf p ∧ p ∉ dests es := by
  induction es with
  | nil => simp [freeDests, dests]
  | cons e es ih =>
    intro prf
    have hd : dests (e :: es) = e.pd.toList ++ dests es := by cases h : e.pd <;> simp [dests, h]
    rw [hd, List.mem_append, not_or, ← and_assoc, ← busyAt_freeSlot]
    exact ih (freeSlot prf e.pd)

/-- The lowest free slot is a slot, and it is not busy. -/
theorem State.freePhys_some {s : State} {p : Nat} (h : s.freePhys = some p) : p < s.prf.length ∧ ¬ BusyAt s.prf p := by
  obtain ⟨hp, hb, _⟩ := List.findIdx?_eq_some_iff_getElem.1 h
  refine ⟨hp, fun ⟨r, hr, hrb⟩ => ?_⟩
  rw [List.getElem?_eq_getElem hp, Option.some.injEq] at hr
  simp [hr, hrb] at hb

/-- A physical destination is given to a producer, and it is the lowest free slot (R112). -/
theorem State.destFor_eq_some {s : State} {i : Instr} {p : Nat} :
    s.destFor i = some p ↔ i.producer = true ∧ s.freePhys = some p := by
  simp [State.destFor]

theorem State.claimDest_of_dst {s : State} {i : Instr} {rd pd : Nat} (hd : i.dst = some rd) (hp : s.destFor i = some pd) :
    s.claimDest i = s.renameDest rd pd := by
  simp [State.claimDest, hd, hp]

theorem State.claimDest_of_none {s : State} {i : Instr} (hp : s.destFor i = none) : s.claimDest i = s := by
  simp [State.claimDest, hp]

/-- Destination renaming makes the claimed slot busy, and no other (R112). -/
theorem State.busyAt_claimDest (s : State) (i : Instr) (p : Nat) :
    BusyAt (s.claimDest i).prf p ↔ BusyAt s.prf p ∨ p ∈ (s.destFor i).toList := by
  cases hp : s.destFor i with
  | none => simp [State.claimDest_of_none hp]
  | some pd =>
    obtain ⟨hprod, hfree⟩ := State.destFor_eq_some.1 hp
    obtain ⟨rd, hd⟩ := i.producer_iff.1 hprod
    rw [State.claimDest_of_dst hd hp, State.renameDest_prf, busyAt_claimSlot (State.freePhys_some hfree).1]
    simp

/-! ### The slots accounted for -/

theorem State.owned_eq (s : State) : s.owned = s.rrat.filterMap id ++ dests s.inFlight := rfl

/-- The busy slots are the slots accounted for, and no slot is accounted for twice. -/
theorem State.freeListOk_iff (s : State) : s.FreeListOk ↔ s.owned.Nodup ∧ ∀ p, BusyAt s.prf p ↔ p ∈ s.owned := by
  constructor
  · refine fun h => ⟨h.nodup, fun p => ⟨fun ⟨r, hr, hb⟩ => (h.busy p r hr).1 hb, fun hp => ?_⟩⟩
    have hr := List.getElem?_eq_getElem (h.range p hp)
    exact ⟨_, hr, (h.busy p _ hr).2 hp⟩
  · rintro ⟨hn, hb⟩
    refine ⟨hn, fun p hp => ?_, fun p r hr => ⟨fun h => (hb p).1 ⟨r, hr, h⟩, fun hp => ?_⟩⟩
    · obtain ⟨r, hr, _⟩ := (hb p).2 hp
      exact (List.getElem?_eq_some_iff.1 hr).1
    · obtain ⟨r', hr', hb'⟩ := (hb p).2 hp
      rw [hr, Option.some.injEq] at hr'
      rwa [hr']

/-- From `s` to `t` exactly the slots `freed` stop being accounted for, and exactly they lose the busy bit. -/
theorem State.FreeListOk.release {s t : State} (h : s.FreeListOk) (freed : List Nat)
    (ho : s.owned.Perm (freed ++ t.owned)) (hb : ∀ p, BusyAt t.prf p ↔ BusyAt s.prf p ∧ p ∉ freed) : t.FreeListOk := by
  obtain ⟨hn, hs⟩ := s.freeListOk_iff.1 h
  obtain ⟨_, hnt, hdisj⟩ := List.nodup_append'.1 (ho.nodup_iff.1 hn)
  refine t.freeListOk_iff.2 ⟨hnt, fun p => ?_⟩
  rw [hb, hs, ho.mem_iff, List.mem_append]
  have := @hdisj p
  tauto

/-- Naming slot `p` in a table of mappings adds it to the named slots and drops the slot that it supersedes. -/
theorem filterMap_set_perm {table : List (Option Nat)} {i : Nat} (hi : i < table.length) (p : Nat) :
    (p :: table.filterMap id).Perm (table[i]?.join.toList ++ (table.set i (some p)).filterMap id) := by
  have hset := (List.set_perm_cons_eraseIdx hi (some p)).filterMap id
  have hold := (List.getElem_cons_eraseIdx_perm hi).filterMap id
  have hget : table[i]?.join.toList ++ (table.eraseIdx i).filterMap id = (table[i] :: table.eraseIdx i).filterMap id := by
    rw [List.getElem?_eq_getElem hi]
    cases h : table[i] <;> simp
  calc (p :: table.filterMap id).Perm (p :: (table[i]?.join.toList ++ (table.eraseIdx i).filterMap id)) := by
        rw [hget]; exact hold.symm.cons p
    _ |>.Perm (table[i]?.join.toList ++ (p :: (table.eraseIdx i).filterMap id)) := List.perm_middle.symm
    _ |>.Perm _ := hset.symm.append_left _

/-! ### The named updates of the state -/

/-- A ROB reset frees the destinations in flight, and the retirement mappings are left (R249). -/
theorem State.FreeListOk.robReset {s : State} (h : s.FreeListOk) (a : Word) : (s.robReset a).FreeListOk := by
  have ho : (s.robReset a).owned = s.rrat.filterMap id := by
    rw [State.owned_eq, State.robReset_inFlight]; simp [dests]
  refine h.release (dests s.inFlight) ?_ fun p => busyAt_freeDests _ p _
  rw [ho]
  exact List.perm_append_comm

/-- The destination of a well-formed instruction is a logical register (R80, R84). -/
theorem Instr.dst_lt_of_wf {n w : Nat} {i : Instr} (hw : i.wf n w = true) {rd : Nat} (hd : i.dst = some rd) : rd < n := by
  cases i <;> simp_all [Instr.wf, Instr.dst]

/-- What the free list needs beside itself: the window, the well-formed instructions in flight, and `n` logical registers. -/
structure State.SlotsOk (n w : Nat) (s : State) : Prop extends s.RobOk, State.InsnsWf n w s, s.FreeListOk where
  registers : s.rrat.length = n

namespace State.SlotsOk

variable {n w : Nat} {s : State} (h : s.SlotsOk n w)
include h

/-- The units and the issue stage rewrite other fields of an entry than its instruction and its destination. -/
theorem robUpdate (i : Nat) {f : RobEntry → RobEntry} (hf : ∀ e, (f e).insn = e.insn ∧ (f e).pd = e.pd) :
    (s.robUpdate i f).SlotsOk n w := by
  have hw : ∀ e, e.Wf n w → (f e).Wf n w := fun e he => by rwa [RobEntry.Wf, (hf e).1, (hf e).2]
  have hd : dests (s.robUpdate i f).inFlight = dests s.inFlight := by
    simpa [dests, List.filterMap_map] using
      congrArg (List.filterMap id) (s.inFlight_update i f (fun e => e.pd) fun e => (hf e).2)
  have ho : (s.robUpdate i f).owned = s.owned := by
    rw [State.owned_eq, hd]; rfl
  exact
    { h.toRobOk.upd i f, h.toInsnsWf.robUpdate i hw with
      nodup := ho ▸ h.nodup
      range := ho ▸ h.range
      busy := ho ▸ h.busy
      registers := h.registers }

theorem finish (i : Nat) (r : Word) : (s.robUpdate i (fun e => e.finish r)).SlotsOk n w :=
  h.robUpdate i fun _ => ⟨rfl, rfl⟩

theorem stageStore (i : Nat) (m : MemOp) : (s.robUpdate i (fun e => e.stageStore m)).SlotsOk n w :=
  h.robUpdate i fun _ => ⟨rfl, rfl⟩

/-- The slots of the oldest entry and of the entries behind it. -/
theorem owned_head {e : RobEntry} (he : s.headEntry = some e) :
    s.owned = s.rrat.filterMap id ++ (e.pd.toList ++ dests s.pop.inFlight) := by
  rw [s.owned_eq, s.inFlight_pop e h.toRobOk he]
  cases hp : e.pd <;> simp [dests, hp]

/-- Retiring the oldest entry frees the slot that its destination supersedes in RRAT; the destination stays busy (R243). -/
theorem retirePop {e : RobEntry} {rd : Nat} (he : s.headEntry = some e) (hd : e.insn.dst = some rd) :
    (s.retireHead rd e).pop.FreeListOk := by
  obtain ⟨hwf, hpd⟩ := h.rob e (State.mem_rob_of_headEntry he)
  obtain ⟨pd, hp⟩ : ∃ pd, e.pd = some pd := Option.isSome_iff_exists.1 (by rw [hpd, Instr.producer, hd]; rfl)
  have hrd : rd < s.rrat.length := h.registers ▸ Instr.dst_lt_of_wf hwf hd
  have hown := h.owned_head he
  rw [hp] at hown
  have hnew : (s.retireHead rd e).pop.owned = (s.rrat.set rd (some pd)).filterMap id ++ dests s.pop.inFlight := by
    simp only [State.retireHead, hp]; rfl
  have hsup : s.superseded rd pd = s.retired rd := by
    refine if_neg fun hr => ?_
    have hmem : pd ∈ s.rrat.filterMap id :=
      List.mem_filterMap.2 ⟨some pd, List.mem_of_getElem? (Option.join_eq_some_iff.1 hr), rfl⟩
    have hn := h.nodup
    rw [hown] at hn
    exact (List.disjoint_of_nodup_append hn) hmem (by simp)
  refine h.toFreeListOk.release (s.retired rd).toList ?_ fun p => ?_
  · rw [hown, hnew, ← List.append_assoc (s.retired rd).toList]
    exact List.perm_middle.trans ((filterMap_set_perm hrd pd).append_right _)
  · rw [← hsup, ← busyAt_freeSlot, ← busyAt_installResult (freeSlot s.prf _) pd e.result]
    simp only [State.retireHead, hp]; rfl

/-- An entry without a destination holds no slot. -/
theorem pop {e : RobEntry} (he : s.headEntry = some e) (hd : e.insn.dst = none) : s.pop.FreeListOk := by
  have hpd := (h.rob e (State.mem_rob_of_headEntry he)).2
  have hp : e.pd = none := by simpa [Instr.producer, hd] using hpd
  have ho : s.owned = s.pop.owned := by
    rw [h.owned_head he, hp]; rfl
  exact h.toFreeListOk.release [] (.of_eq ho) fun p => by simp

/-- A commit frees what it supersedes in RRAT, and a reset behind it frees the destinations in flight. -/
theorem commitEffect {e : RobEntry} {t : State} (he : s.headEntry = some e) (ht : CommitEffect e.insn e s t) :
    t.SlotsOk n w := by
  have hfree : t.FreeListOk := by
    cases ht with
    | producer rd hd => exact h.retirePop he hd
    | store hd => exact { h.pop he hd with }
    | storeFault => exact { h with }
    | plain hd => exact h.pop he hd
    | reset hd => exact (h.pop he hd).robReset _
    | jal rd hd => exact (h.retirePop he hd).robReset _
    | halt hd => exact { h.pop he hd with }
  have hregs : t.rrat.length = s.rrat.length := by
    obtain ⟨u, hu, rfl | rfl⟩ := ht.writes <;> exact hu.rrat
  exact { h.toRobOk.commitEffect he ht, h.toInsnsWf.commitEffect ht, hfree with registers := hregs.trans h.registers }

theorem resolved (b : BruOp) (taken : Bool) : (resolved s b taken).SlotsOk n w := by
  have hr : (s.robUpdate b.entry.rob (fun e => e.resolve b taken)).SlotsOk n w := h.robUpdate _ fun _ => ⟨rfl, rfl⟩
  cases taken with
  | false => exact { hr with }
  | true => exact { hr with lf := forall_of_none, ld := forall_of_none }

theorem place (c : FuClass) (u : IqEntry) : (s.place c u).SlotsOk n w := by
  cases c with
  | mem =>
    have hr : (s.robUpdate u.rob (fun e => { e with memReady := true })).SlotsOk n w :=
      h.robUpdate _ fun _ => ⟨rfl, rfl⟩
    exact { hr with }
  | _ => exact { h with }

/-- Dispatch claims a free slot for a producer, and the entry it allocates names that slot (R112, R113). -/
theorem allocate (pc : Word) {i : Instr} {ps : List Nat} (hi : i.wf n w = true) (hs : s.stalls i ps = false) :
    (s.allocate pc i ps).SlotsOk n w := by
  obtain ⟨hn, hb⟩ := s.freeListOk_iff.1 h.toFreeListOk
  have ho : (s.allocate pc i ps).owned = s.owned ++ (s.destFor i).toList := by
    have hf := s.inFlight_push (s.robEntryFor pc i ps) h.toRobOk (State.stalls_false hs).1
    have ha : (s.allocate pc i ps).owned = s.rrat.filterMap id ++ dests (s.push (s.robEntryFor pc i ps)).inFlight := by
      rw [s.allocate_eq]; rfl
    rw [ha, hf, s.owned_eq]
    cases hp : s.destFor i <;> simp [dests, State.robEntryFor, hp]
  have hp : (s.allocate pc i ps).prf = (s.claimDest i).prf := by rw [s.allocate_eq]
  have hfree : (s.allocate pc i ps).FreeListOk := by
    refine (State.freeListOk_iff _).2 ⟨?_, fun p => ?_⟩
    · rw [ho, List.nodup_append']
      refine ⟨hn, by cases s.destFor i <;> simp, fun p hp hpd => ?_⟩
      obtain ⟨_, hpd⟩ := State.destFor_eq_some.1 (Option.mem_toList.1 hpd)
      exact (State.freePhys_some hpd).2 ((hb p).2 hp)
    · rw [hp, ho, s.busyAt_claimDest, hb, List.mem_append]
  exact { h.toRobOk.allocate pc hs, h.toInsnsWf.allocate (pc := pc) hi hs, hfree with
    registers := by rw [s.allocate_eq]; exact h.registers }

end State.SlotsOk

/-! ### The cycle -/

theorem slotsOk_preserved (n w : Nat) : Preserved (State.SlotsOk n w) where
  start _ h := { h with }
  commit _ _ _ h he _ hc := h.commitEffect he hc
  target _ _ _ _ h _ _ _ _ := { h with }
  mulWrite _ m h _ := { h.finish m.entry.rob m.prod with }
  mulPass _ h := { h with }
  mulStart _ _ _ h _ _ _ := { h with }
  int _ u r _ h _ _ _ := { h.finish u.rob r with }
  fault _ _ h := { h with }
  load _ m r h _ _ := { h.finish m.entry.rob r with }
  store _ m h _ := { h.stageStore m.entry.rob m with }
  pass s h := by
    rw [passStage_eq]
    exact { h with }
  agen s u ea data h _ _ _ _ := by
    rw [State.intoMem2_eq]
    exact { h with }
  resolve _ b taken h _ := h.resolved b taken
  issue _ h := issueStage_keeps (fun s c k u h _ _ =>
    have hk : State.SlotsOk n w { s with iq := s.iq.set k none } := { h with }
    hk.place c u) h
  dispatch _ d _ h hd _ hs := h.allocate d.pc (h.ld d hd) hs
  fetch s h := by
    have hw := h.toInsnsWf.fetchStage
    rw [fetchStage_eq] at hw ⊢
    exact { hw, h with }
  finish s h := by
    rw [endCycle_eq]
    exact { h with }

/-- Settles O53: a commit frees the slot that its destination supersedes in RRAT, a ROB reset those in flight, dispatch claims a
free slot for the entry it allocates, and no other stage writes the busy bits, RRAT or the destinations in flight. -/
theorem freeListConservation : Obligations.FreeListConservation := by
  unfold Obligations.FreeListConservation
  intro s t hst hr hi hf h
  have hs : s.SlotsOk s.rrat.length s.xlen := { hr, (s.insnsOk_iff.1 hi).2, hf with registers := rfl }
  exact ((slotsOk_preserved _ _).step s t hs hst h).1.toFreeListOk

end Sys2Proof.Machine

/-! PROOF. The cycle and the instruction in the decode latch (O9 to O12): a stage is exec of the instruction it holds, and with
nothing in flight behind the front end the stages before dispatch do nothing. -/

namespace Sys2Proof.Machine

/-! ### Each stage is exec of its instruction (O11) -/

/-- A pass of the commit loop over a finished head entry (R240). -/
theorem commitLoop_succ {s t : State} {e : RobEntry} (he : s.headEntry = some e) (hv : e.resultValid = true)
    (ht : runStage .commit e.insn s = .next t) (n : Nat) :
    commitLoop (n + 1) s = if t.commitStops then .next t else commitLoop n t := by
  simp [commitLoop, he, hv, ht]

/-- Settles O11: with its latch full a stage is `runStage` of the instruction in it, and `runStage` is exec at that stage. -/
theorem stagesRunTheirInstruction : Obligations.StagesRunTheirInstruction := by
  unfold Obligations.StagesRunTheirInstruction
  refine ⟨fun s u h => ?_, fun s u h => ?_, fun s m h => ?_, fun s u h => ?_, fun s b h => ?_, fun s u h => ?_,
    fun s m h => ?_, fun s t e n he hv ht => commitLoop_succ he hv ht n⟩
  · simp only [integerStage, h, runStage]
  · simp only [mulStartStage, h, runStage]
  · simp only [mulWriteStage, h, runStage]
  · simp only [targetStage, h, runStage]
  · simp only [resolveStage, h, runStage]
  · simp only [agenStage, h, runStage]
  · simp only [accessStage, h, runStage]

/-! ### The dispatch stage is exec at a cycle boundary (O10) -/

theorem State.with_stage_self {s : State} {st : Stage} (h : s.stage = st) : { s with stage := st } = s := by
  subst h; rfl

/-- Dispatch always answers a next state, and leaves the stage field. -/
theorem exec_dispatch_next (i : Instr) {s : State} (hs : s.stage = .dispatch) :
    ∃ t, exec i s = .next t ∧ t.stage = .dispatch := by
  rw [exec_dispatch i s hs]
  cases hd : s.ld with
  | none => exact ⟨s, by simp [dispatch, hd], hs⟩
  | some d =>
    rcases dispatch_cases i s d hd with ⟨r, _, h⟩ | ⟨ps, _, _, h⟩ | ⟨ps, _, _, h⟩
    · exact ⟨_, h, hs⟩
    · exact ⟨_, h, hs⟩
    · exact ⟨_, h, (allocate_stage s d.pc i ps).trans hs⟩

theorem runStage_dispatch_eq_exec (i : Instr) {s : State} (hs : s.stage = .dispatch) : runStage .dispatch i s = exec i s := by
  obtain ⟨t, ht, hst⟩ := exec_dispatch_next i hs
  rw [runStage, State.with_stage_self hs, ht, settle, State.with_stage_self hst]

/-- The stages before issue end at the stage of a cycle boundary. -/
theorem beforeIssue_stage {s t : State} (hs : s.stage = .dispatch) (h : beforeIssue s = .next t) : t.stage = .dispatch := by
  have hc : CommitKeeps (fun _ => True) := ⟨fun _ _ => trivial, fun _ _ _ _ _ _ _ => trivial⟩
  exact (beforeIssue_keeps hc (memory_unitsKeep fun _ _ => True) s t trivial hs h).2

/-- Issue and dispatch with an instruction in the decode latch, then fetch and the end of the cycle (R101, R103). -/
theorem frontStages_eq {s t : State} {d : Fetched} (hs : s.stage = .dispatch) (hd : (issueStage s).ld = some d)
    (ht : exec d.insn (issueStage s) = .next t) :
    frontStages s = .next (if t.fault.isSome then t else endCycle (fetchStage t)) := by
  have hst : (issueStage s).stage = .dispatch := (issueStage_stage s).trans hs
  have hi : issueAndDispatch s = .next t := by
    simp only [issueAndDispatch, dispatchStage, hd]
    rw [runStage_dispatch_eq_exec _ hst, ht]
  rw [frontStages, hi, andThen]
  split <;> rfl

/-- A step in which no stage before issue faults, with an instruction in the decode latch after issue. -/
theorem step_runs_decoded {s s1 t : State} {d : Fetched} (hr : s.Running) (hb : beforeIssue s = .next s1)
    (hf : s1.fault = none) (hd : (issueStage s1).ld = some d) (ht : exec d.insn (issueStage s1) = .next t) :
    step s = .next (if t.fault.isSome then t else endCycle (fetchStage t)) := by
  rw [step_eq_cycle hr.fault hr.halted, cycle, hb, andThen, hf]
  exact frontStages_eq (beforeIssue_stage hr.stage hb) hd ht

/-- Settles O10: the dispatch stage is exec of the instruction in the decode latch, and the stages around it stand in the order
of R101. -/
theorem stepRunsDecodedInstruction : Obligations.StepRunsDecodedInstruction := by
  unfold Obligations.StepRunsDecodedInstruction
  intro s s1 t d hr hb hf hd ht
  exact step_runs_decoded hr hb hf hd ht

/-! ### An idle back end (O9) -/

theorem issueStage_of_empty {s : State} (h : ∀ e ∈ s.iq, e = none) : issueStage s = s := by
  have hsel : ∀ c, s.select c = none := fun c => List.findIdx?_eq_none_iff.2 fun e he => by rw [h e he]
  simp only [issueStage, hsel]
  rfl

theorem passStage_of_empty {s : State} (h : ∀ m ∈ s.memPass, m = none) (ha : s.lAcc = none) : passStage s = s := by
  unfold passStage
  split
  · rfl
  · rename_i m hm
    have hmem := List.mem_of_getLast? hm
    have hlen : s.memPass.length - 1 + 1 = s.memPass.length := Nat.sub_add_cancel (List.length_pos_of_mem hmem)
    have hrep := List.eq_replicate_iff.2 ⟨rfl, h⟩
    have hpass : none :: s.memPass.dropLast = s.memPass := by
      rw [hrep, List.dropLast_replicate, ← List.replicate_succ, hlen]
    rw [h m hmem, hpass, ← ha]

theorem mulPassStage_of_empty {s : State} (h2 : s.lMul2 = none) (h3 : s.lMul3 = none) : mulPassStage s = s := by
  cases s
  simp only at h2 h3
  subst h2 h3
  rfl

namespace State.BackEndIdle

variable {s : State} (h : s.BackEndIdle)
include h

theorem commitStage : commitStage s = .next s := by
  rw [Machine.commitStage, h.count, commitLoop]

theorem memoryStages (hf : s.fault = none) : memoryStages s = .next s := by
  simp [Machine.memoryStages, accessStage, agenStage, andThen, h.lAcc, h.lMem1, hf, passStage_of_empty h.memPass h.lAcc]

theorem executeStages (hf : s.fault = none) : executeStages s = .next s := by
  simp [Machine.executeStages, resolveStage, targetStage, mulWriteStage, mulStartStage, integerStage, andThen, h.lBru2,
    h.lBru1, h.lMul3, h.lMul1, h.lInt, hf, mulPassStage_of_empty h.lMul2 h.lMul3]

/-- The stages before issue do nothing but start the cycle. -/
theorem beforeIssue (hf : s.fault = none) : beforeIssue s = .next (startCycle s) := by
  have hi : (startCycle s).BackEndIdle := { h with }
  have hf' : (startCycle s).fault = none := hf
  simp [Machine.beforeIssue, hi.commitStage, unitStages, andThen, hi.memoryStages hf', hi.executeStages hf']

end State.BackEndIdle

theorem quietStep {s t : State} {d : Fetched} (hr : s.Running) (hi : s.BackEndIdle) (hd : s.ld = some d)
    (ht : exec d.insn (startCycle s) = .next t) :
    step s = .next (if t.fault.isSome then t else endCycle (fetchStage t)) := by
  have he : issueStage (startCycle s) = startCycle s := issueStage_of_empty hi.iq
  refine step_runs_decoded hr (hi.beforeIssue hr.fault) hr.fault (d := d) ?_ ?_
  · rw [he]; exact hd
  · rw [he]; exact ht

/-- Settles O9: with an idle back end the stages before dispatch only start the cycle. -/
theorem quietStepRunsDecodedInstruction : Obligations.QuietStepRunsDecodedInstruction := by
  unfold Obligations.QuietStepRunsDecodedInstruction
  intro s t d hr hi hd ht
  exact quietStep hr hi hd ht

/-! ### A placed instruction (O12) -/

/-- The reset state with `i` placed has `i` in the decode latch and nothing behind the front end (log 7). -/
theorem reset_withFetched_idle (i : Instr) : (State.reset.withFetched i).BackEndIdle :=
  { (show State.reset.BackEndIdle from ⟨rfl, by decide, rfl, rfl, rfl, rfl, rfl, rfl, rfl, by decide, rfl⟩) with }

/-- Settles O12: the placed instruction stands in the decode latch of a running machine with an idle back end (O9). -/
theorem placedInstructionRunsNext : Obligations.PlacedInstructionRunsNext := by
  unfold Obligations.PlacedInstructionRunsNext
  intro nbits w i hi
  have hp : State.reset.withFetchWord nbits w = State.reset.withFetched i := by simp only [State.withFetchWord, hi]
  obtain ⟨t, ht, _⟩ := exec_dispatch_next i (s := State.reset.withFetched i) rfl
  rw [hp]
  exact ⟨t, ht, quietStep ⟨rfl, rfl, rfl⟩ (reset_withFetched_idle i) rfl ht⟩

end Sys2Proof.Machine

/-! PROOF. Dispatch (O14 to O20): an unmapped source is a fault, a missing resource a stall, and with every resource free the
state after dispatch is `State.allocate`, each part of which has one equation per case. -/

namespace Sys2Proof.Machine

/-! ### The sources (R109) -/

/-- A register that the table maps, alone and at the front of a list of sources. -/
theorem renameSources_cons {srat : List (Option Nat)} {q p : Nat} (h : srat[q]? = some (some p)) (rs : List Nat) :
    renameSources srat (q :: rs) = (renameSources srat rs).map (p :: ·) := by
  simp only [renameSources, h, Option.join_some]
  cases renameSources srat rs <;> rfl

/-- The first unmapped source is the one that is named. -/
theorem renameSources_unmapped {srat : List (Option Nat)} {r : Nat} (hr : srat[r]? = some none) (post : List Nat) :
    ∀ {pre : List Nat}, (∀ q ∈ pre, ∃ p, srat[q]? = some (some p)) → renameSources srat (pre ++ r :: post) = .error r
  | [], _ => by simp [renameSources, hr]
  | q :: pre, h => by
    obtain ⟨p, hp⟩ := h q (by simp)
    have ih := renameSources_unmapped hr post (pre := pre) fun q hq => h q (by simp [hq])
    rw [List.cons_append, renameSources_cons hp, ih]
    rfl

/-- Sources that are all mapped are renamed to what the table maps them to. -/
theorem renameSources_mapped {srat : List (Option Nat)} :
    ∀ {rs ps : List Nat}, rs.map (fun r => srat[r]?) = ps.map (fun p => some (some p)) → renameSources srat rs = .ok ps
  | [], [], _ => rfl
  | r :: rs, p :: ps, h => by
    obtain ⟨hr, hrs⟩ := List.cons.inj h
    rw [renameSources_cons hr, renameSources_mapped hrs]
    rfl

/-! ### The answers of dispatch -/

section
variable {i : Instr} {s : State} {d : Fetched} {ps : List Nat} (hst : s.stage = .dispatch) (hd : s.ld = some d)
include hst hd

theorem exec_unmapped {r : Nat} (hr : renameSources s.srat i.srcs = .error r) :
    exec i s = .next (s.raiseFault (.unmappedSource d.pc r)) := by
  rw [exec_dispatch i s hst]
  simp only [dispatch, hd, hr]

variable (hps : i.srcs.map (fun r => s.srat[r]?) = ps.map (fun p => some (some p)))
include hps

theorem exec_stalls (hs : s.stalls i ps = true) : exec i s = .next s := by
  rw [exec_dispatch i s hst]
  simp only [dispatch, hd, renameSources_mapped hps, hs, if_true]

theorem exec_allocates (hs : s.stalls i ps = false) : exec i s = .next (s.allocate d.pc i ps) := by
  rw [exec_dispatch i s hst]
  simp only [dispatch, hd, renameSources_mapped hps, hs, Bool.false_eq_true, if_false]

end

/-- Settles O14: the sources are renamed in role order before any resource is looked at. -/
theorem unmappedSourceFaults : Obligations.UnmappedSourceFaults := by
  unfold Obligations.UnmappedSourceFaults
  intro i s d pre post r hst hd hsrcs hpre hr
  exact exec_unmapped hst hd (hsrcs ▸ renameSources_unmapped hr post hpre)

/-! ### The resources (R110, R111, R115) -/

/-- The condition of the memory bypass (R115). -/
theorem State.bypasses_iff (s : State) (i : Instr) (ps : List Nat) :
    s.bypasses i ps = true ↔ i.cls = some .mem ∧ (∀ p ∈ ps, s.physHasResult p = true) ∧ s.lMem1 = none := by
  simp [State.bypasses, Instr.isMem, and_assoc]

theorem State.bypasses_of_not_mem {s : State} {i : Instr} (h : i.cls ≠ some .mem) (ps : List Nat) :
    s.bypasses i ps = false := by
  rw [← Bool.not_eq_true, s.bypasses_iff]
  exact fun hb => h hb.1

theorem State.bypasses_of_not {s : State} {i : Instr} {ps : List Nat}
    (h : ¬ ((∀ p ∈ ps, s.physHasResult p = true) ∧ s.lMem1 = none)) : s.bypasses i ps = false := by
  rw [← Bool.not_eq_true, s.bypasses_iff]
  exact fun hb => h hb.2

theorem State.needsIq_iff (s : State) (i : Instr) (ps : List Nat) :
    s.needsIq i ps = true ↔ i.cls ≠ none ∧ s.bypasses i ps = false := by
  simp [State.needsIq, Option.isSome_iff_ne_none]

theorem State.freePhys_eq_none (s : State) : s.freePhys = none ↔ ∀ r ∈ s.prf, r.busy = true := by
  simp [State.freePhys]

theorem State.freeIq_eq_none (s : State) : s.freeIq = none ↔ ∀ e ∈ s.iq, e ≠ none := by
  simp [State.freeIq, Option.isSome_iff_ne_none]

/-- The first place of a table with the property `q`, in terms of the places below it. -/
theorem findIdx?_of_getElem? {α : Type} {l : List α} {q : α → Bool} {k : Nat} {x : α} (hk : l[k]? = some x)
    (hx : q x = true) (hlow : ∀ j y, j < k → l[j]? = some y → q y = false) : l.findIdx? q = some k := by
  obtain ⟨hlt, hget⟩ := List.getElem?_eq_some_iff.1 hk
  refine List.findIdx?_eq_some_iff_getElem.2 ⟨hlt, hget ▸ hx, fun j hj => ?_⟩
  rw [hlow j _ hj (List.getElem?_eq_getElem _)]
  exact Bool.false_ne_true

theorem State.freePhys_of_lowest {s : State} {pd : Nat} {r : PhysReg} (hr : s.prf[pd]? = some r) (hb : r.busy = false)
    (hlow : ∀ q r', q < pd → s.prf[q]? = some r' → r'.busy = true) : s.freePhys = some pd :=
  findIdx?_of_getElem? hr (by simp [hb]) fun q r' hq hr' => by simp [hlow q r' hq hr']

theorem State.freeIq_of_lowest {s : State} {k : Nat} (hk : s.iq[k]? = some none)
    (hlow : ∀ j, j < k → s.iq[j]? ≠ some none) : s.freeIq = some k :=
  findIdx?_of_getElem? hk rfl fun j e hj he => by
    cases e with
    | none => exact absurd he (hlow j hj)
    | some u => rfl

/-- Dispatch stalls exactly where one of the three resources is missing (R111). -/
theorem State.stalls_iff (s : State) (i : Instr) (ps : List Nat) :
    s.stalls i ps = true ↔ s.rob.length ≤ s.count ∨ (i.dst ≠ none ∧ s.freePhys = none) ∨
      (i.cls ≠ none ∧ s.bypasses i ps = false ∧ s.freeIq = none) := by
  simp [State.stalls, Instr.producer, Option.isSome_iff_ne_none, State.needsIq_iff, or_assoc, and_assoc]

/-- Settles O15: the condition of the statement is that of the stall. -/
theorem dispatchStallsWithoutResources : Obligations.DispatchStallsWithoutResources := by
  unfold Obligations.DispatchStallsWithoutResources
  intro i s d ps hst hd hps hmiss
  refine exec_stalls hst hd hps ((s.stalls_iff i ps).2 ?_)
  rw [s.freePhys_eq_none, s.freeIq_eq_none, ← Bool.not_eq_true, s.bypasses_iff]
  tauto

/-! ### The allocation (R112 to R117) -/

theorem State.enqueue_of_bypass {s : State} {i : Instr} {ps : List Nat} (h : s.bypasses i ps = true) (u : IqEntry) :
    s.enqueue i ps u = { s with lMem1 := some u } := by
  simp [State.enqueue, h]

theorem State.enqueue_of_slot {s : State} {i : Instr} {ps : List Nat} {k : Nat} (hc : i.cls ≠ none)
    (hb : s.bypasses i ps = false) (hk : s.freeIq = some k) (u : IqEntry) :
    s.enqueue i ps u = { s with iq := s.iq.set k (some u) } := by
  simp [State.enqueue, hb, hk, Option.isSome_iff_ne_none, hc]

/-- NOP and HALT wait nowhere: no unit sees them (R118, R119). -/
theorem State.enqueue_of_no_class {s : State} {i : Instr} {ps : List Nat} (hc : i.cls = none) (u : IqEntry) :
    s.enqueue i ps u = s := by
  have hb : s.bypasses i ps = false := State.bypasses_of_not_mem (by simp [hc]) ps
  simp [State.enqueue, hb, hc]

theorem claimSlot_eq_set {prf : List PhysReg} {p : Nat} {r : PhysReg} (hr : prf[p]? = some r) :
    claimSlot prf p = prf.set p { r with busy := true, hasResult := false } := by
  rw [claimSlot, List.modify_eq_set_getElem?, hr]
  rfl

theorem State.destFor_of_no_dst {s : State} {i : Instr} (h : i.dst = none) : s.destFor i = none := by
  simp [State.destFor, Instr.producer, h]

theorem State.destFor_of_lowest {s : State} {i : Instr} {rd pd : Nat} {r : PhysReg} (hrd : i.dst = some rd)
    (hr : s.prf[pd]? = some r) (hb : r.busy = false) (hlow : ∀ q r', q < pd → s.prf[q]? = some r' → r'.busy = true) :
    s.destFor i = some pd :=
  State.destFor_eq_some.2 ⟨i.producer_iff.2 ⟨rd, hrd⟩, State.freePhys_of_lowest hr hb hlow⟩

/-- The lowest free slot is claimed and mapped to by SRAT (R112). -/
theorem State.claimDest_of_lowest {s : State} {i : Instr} {rd pd : Nat} {r : PhysReg} (hrd : i.dst = some rd)
    (hp : s.destFor i = some pd) (hr : s.prf[pd]? = some r) :
    s.claimDest i =
      { s with prf := s.prf.set pd { r with busy := true, hasResult := false }, srat := s.srat.set rd (some pd) } := by
  rw [State.claimDest_of_dst hrd hp, State.renameDest, claimSlot_eq_set hr]

/-- A producer has a unit (R88, R89). -/
theorem Instr.cls_ne_none_of_dst {i : Instr} {rd : Nat} (h : i.dst = some rd) : i.cls ≠ none := by
  cases i <;> simp_all [Instr.cls, Instr.dst]

theorem Instr.ctl_eq_decide (i : Instr) : i.ctl = decide (i.cls = some .branch) :=
  Bool.eq_iff_iff.2 (by rw [Instr.ctl_iff, decide_eq_true_iff])

theorem Instr.validAtDispatch_eq_decide (i : Instr) : i.validAtDispatch = decide (i.cls = none) :=
  Bool.eq_iff_iff.2 (by rw [Instr.validAtDispatch, beq_iff_eq, decide_eq_true_iff])

section
variable {i : Instr} {s : State} {d : Fetched} {ps : List Nat} (hst : s.stage = .dispatch) (hd : s.ld = some d)
  (hps : i.srcs.map (fun r => s.srat[r]?) = ps.map (fun p => some (some p))) (hroom : s.count < s.rob.length)
  (hdst : i.dst ≠ none → s.freePhys ≠ none)
include hst hd hps hroom hdst

/-- Dispatch with room in the ROB, and a free physical slot and a free issue-queue slot where they are needed (R111). -/
theorem exec_allocates_of_free (hq : i.cls ≠ none → s.bypasses i ps = false → s.freeIq ≠ none) :
    exec i s = .next (s.allocate d.pc i ps) := by
  refine exec_allocates hst hd hps ?_
  rw [← Bool.not_eq_true, s.stalls_iff]
  have hfull : ¬ s.rob.length ≤ s.count := Nat.not_le.2 hroom
  tauto

/-- The dispatch of an instruction that takes slot `k` of the issue queue (R114). -/
theorem exec_dispatch_queued {k : Nat} (hc : i.cls ≠ none) (hb : s.bypasses i ps = false) (hk : s.freeIq = some k) :
    exec i s = .next { s with
      prf := (s.claimDest i).prf
      srat := (s.claimDest i).srat
      rob := s.rob.set s.tail (some {
        pc := d.pc, insn := i, ps1 := ps[0]?, ps2 := ps[1]?, ps3 := ps[2]?, pd := s.destFor i,
        result := 0, ea := 0, taken := false, resultValid := false, memReady := false, exc := .none })
      tail := (s.tail + 1) % s.rob.length
      count := s.count + 1
      iq := s.iq.set k (some
        { insn := i, ps1 := ps[0]?, ps2 := ps[1]?, ps3 := ps[2]?, pd := s.destFor i, rob := s.tail })
      branchPending := decide (i.cls = some .branch) || s.branchPending
      ld := none } := by
  rw [exec_allocates_of_free hst hd hps hroom hdst fun _ _ => by simp [hk], s.allocate_eq, State.enqueue_of_slot hc hb hk,
    State.robEntryFor, hb, Instr.validAtDispatch_eq_decide, decide_eq_false hc, Instr.ctl_eq_decide]
  rfl

/-- The dispatch of a memory instruction by the bypass (R115). -/
theorem exec_dispatch_bypassed (hb : s.bypasses i ps = true) :
    exec i s = .next { s with
      prf := (s.claimDest i).prf
      srat := (s.claimDest i).srat
      rob := s.rob.set s.tail (some {
        pc := d.pc, insn := i, ps1 := ps[0]?, ps2 := ps[1]?, ps3 := ps[2]?, pd := s.destFor i,
        result := 0, ea := 0, taken := false, resultValid := false, memReady := true, exc := .none })
      tail := (s.tail + 1) % s.rob.length
      count := s.count + 1
      lMem1 := some { insn := i, ps1 := ps[0]?, ps2 := ps[1]?, ps3 := ps[2]?, pd := s.destFor i, rob := s.tail }
      ld := none } := by
  have hmem : i.cls = some .mem := ((s.bypasses_iff i ps).1 hb).1
  rw [exec_allocates_of_free hst hd hps hroom hdst fun _ => by simp [hb], s.allocate_eq, State.enqueue_of_bypass hb,
    State.robEntryFor, hb, Instr.validAtDispatch_eq_decide, Instr.ctl_eq_decide, hmem]
  rfl

/-- The dispatch of an instruction that no unit sees (R118, R119). -/
theorem exec_dispatch_no_class (hc : i.cls = none) :
    exec i s = .next { s with
      prf := (s.claimDest i).prf
      srat := (s.claimDest i).srat
      rob := s.rob.set s.tail (some {
        pc := d.pc, insn := i, ps1 := ps[0]?, ps2 := ps[1]?, ps3 := ps[2]?, pd := s.destFor i,
        result := 0, ea := 0, taken := false, resultValid := true, memReady := false, exc := .none })
      tail := (s.tail + 1) % s.rob.length
      count := s.count + 1
      ld := none } := by
  have hb : s.bypasses i ps = false := State.bypasses_of_not_mem (by simp [hc]) ps
  rw [exec_allocates_of_free hst hd hps hroom hdst fun h => absurd hc h, s.allocate_eq, State.enqueue_of_no_class hc,
    State.robEntryFor, hb, Instr.validAtDispatch_eq_decide, Instr.ctl_eq_decide, hc]
  rfl

end

/-! ### The dispatch of each kind of instruction (O16 to O20) -/

/-- Settles O16: a producer that is no memory instruction claims the lowest free slot and takes the lowest free queue slot. -/
theorem producerDispatchCompletes : Obligations.ProducerDispatchCompletes := by
  unfold Obligations.ProducerDispatchCompletes
  intro i s d ps rd pd k r hrd hmem hst hd hps hroom hr hb hlow hk hklow
  have hp := State.destFor_of_lowest hrd hr hb hlow
  have hfree : i.dst ≠ none → s.freePhys ≠ none := fun _ => by simp [(State.destFor_eq_some.1 hp).2]
  rw [exec_dispatch_queued hst hd hps hroom hfree (Instr.cls_ne_none_of_dst hrd)
    (State.bypasses_of_not_mem hmem ps) (State.freeIq_of_lowest hk hklow), State.claimDest_of_lowest hrd hp hr, hp]

/-- Settles O17: a load claims the lowest free slot, and takes the bypass or the lowest free queue slot. -/
theorem loadDispatchCompletes : Obligations.LoadDispatchCompletes := by
  unfold Obligations.LoadDispatchCompletes
  intro i s d ps rd pd r hrd hmem hst hd hps hroom hr hb hlow
  have hp := State.destFor_of_lowest hrd hr hb hlow
  have hfree : i.dst ≠ none → s.freePhys ≠ none := fun _ => by simp [(State.destFor_eq_some.1 hp).2]
  refine ⟨fun hres hl => ?_, fun k hno hk hklow => ?_⟩
  · rw [exec_dispatch_bypassed hst hd hps hroom hfree ((s.bypasses_iff i ps).2 ⟨hmem, hres, hl⟩),
      State.claimDest_of_lowest hrd hp hr, hp]
  · rw [exec_dispatch_queued hst hd hps hroom hfree (by simp [hmem]) (State.bypasses_of_not hno)
      (State.freeIq_of_lowest hk hklow), State.claimDest_of_lowest hrd hp hr, hp, hmem]
    rfl

/-- Settles O18: a store claims no slot, and takes the bypass or the lowest free queue slot. -/
theorem storeDispatchCompletes : Obligations.StoreDispatchCompletes := by
  unfold Obligations.StoreDispatchCompletes
  intro i s d ps hdst hmem hst hd hps hroom
  have hp := State.destFor_of_no_dst (s := s) hdst
  refine ⟨fun hres hl => ?_, fun k hno hk hklow => ?_⟩
  · rw [exec_dispatch_bypassed hst hd hps hroom (absurd hdst) ((s.bypasses_iff i ps).2 ⟨hmem, hres, hl⟩),
      State.claimDest_of_none hp, hp]
  · rw [exec_dispatch_queued hst hd hps hroom (absurd hdst) (by simp [hmem]) (State.bypasses_of_not hno)
      (State.freeIq_of_lowest hk hklow), State.claimDest_of_none hp, hp, hmem]
    rfl

/-- Settles O19: a branch without a destination claims no slot and takes the lowest free queue slot. -/
theorem jumpAndBranchDispatchCompletes : Obligations.JumpAndBranchDispatchCompletes := by
  unfold Obligations.JumpAndBranchDispatchCompletes
  intro i s d ps k hdst hbr hst hd hps hroom hk hklow
  have hp := State.destFor_of_no_dst (s := s) hdst
  have hb : s.bypasses i ps = false := State.bypasses_of_not_mem (by simp [hbr]) ps
  rw [exec_dispatch_queued hst hd hps hroom (absurd hdst) (by simp [hbr]) hb (State.freeIq_of_lowest hk hklow),
    State.claimDest_of_none hp, hp, hbr]
  rfl

/-- Settles O20: NOP and HALT have no source, no destination and no class, so they take a ROB entry only. -/
theorem nopAndHaltDispatchCompletes : Obligations.NopAndHaltDispatchCompletes := by
  unfold Obligations.NopAndHaltDispatchCompletes
  intro i s d hi hst hd hroom
  have hattr : i.cls = none ∧ i.dst = none ∧ i.srcs = [] := by rcases hi with rfl | rfl <;> exact ⟨rfl, rfl, rfl⟩
  obtain ⟨hc, hdst, hsrcs⟩ := hattr
  have hp := State.destFor_of_no_dst (s := s) hdst
  rw [exec_dispatch_no_class (ps := []) hst hd (by rw [hsrcs]; rfl) hroom (absurd hdst) hc, State.claimDest_of_none hp, hp]
  rfl

end Sys2Proof.Machine

/-! PROOF. Fetch (O43), and the end of a run (O13): the bit `halted` is written by the commit of a HALT alone. -/

namespace Sys2Proof.Machine

/-! ### Fetch (R105 to R107) -/

theorem State.advanceFront_of_empty {s : State} (h : s.ld = none) : s.advanceFront = { s with ld := s.lf, lf := none } := by
  simp [State.advanceFront, h]

theorem State.advanceFront_of_full {s : State} {d : Fetched} (h : s.ld = some d) : s.advanceFront = s := by
  simp [State.advanceFront, h]

theorem fetchStage_of_closed {s : State} (h : s.redirect = true ∨ s.branchPending = true) : fetchStage s = s := by
  simp [fetchStage, h]

section
variable {s : State} (hr : s.redirect = false) (hb : s.branchPending = false)
include hr hb

theorem fetchStage_of_held {f : Fetched} (hf : s.lf = some f) : fetchStage s = s.advanceFront := by
  simp [fetchStage, hr, hb, hf]

theorem fetchStage_of_no_instruction (hf : s.lf = none) (hi : s.ifetch s.pc = none) : fetchStage s = s := by
  simp [fetchStage, hr, hb, hf, hi]

theorem fetchStage_of_instruction {i : Instr} (hf : s.lf = none) (hi : s.ifetch s.pc = some i) :
    fetchStage s = { s with lf := some { pc := s.pc, insn := i }, pc := s.nextPc s.pc }.advanceFront := by
  simp [fetchStage, hr, hb, hf, hi]

end

/-- Instruction `k` of the store is at BASE_PC + INSN_BYTES * k (R106). -/
theorem State.ifetch_of_index {s : State} (hn : 0 < s.insnBytes) (k : Nat) :
    s.ifetch (s.basePc + s.insnBytes * k) = s.imem[k]? := by
  simp [State.ifetch, State.fetchIndex, Nat.mul_div_cancel_left k hn]

theorem State.ifetch_below {s : State} {a : Word} (h : a < s.basePc) : s.ifetch a = none := by
  simp [State.ifetch, State.fetchIndex, Nat.not_le.2 h]

theorem State.ifetch_unaligned {s : State} {a : Word} (h : (a - s.basePc) % s.insnBytes ≠ 0) : s.ifetch a = none := by
  simp [State.ifetch, State.fetchIndex, h]

/-- Settles O43: one clause for each case of the front latches, and one for each case of the address. -/
theorem fetchStageEffect : Obligations.FetchStageEffect := by
  unfold Obligations.FetchStageEffect
  refine ⟨fun s h => fetchStage_of_closed h, fun s f hr hb hf => ⟨fun hd => ?_, fun d hd => ?_⟩,
    fun s hr hb hf => ⟨fetchStage_of_no_instruction hr hb hf, fun i hi => ⟨fun hd => ?_, fun d hd => ?_⟩⟩,
    fun s a => ⟨fun k hn ha => ha ▸ State.ifetch_of_index hn k, State.ifetch_below, fun _ => State.ifetch_unaligned⟩⟩
  · rw [fetchStage_of_held hr hb hf, State.advanceFront_of_empty hd, hf]
  · rw [fetchStage_of_held hr hb hf, State.advanceFront_of_full hd]
  · rw [fetchStage_of_instruction hr hb hf hi, hf]
    exact State.advanceFront_of_empty hd
  · rw [fetchStage_of_instruction hr hb hf hi]
    exact State.advanceFront_of_full hd

/-! ### The status (R103, R271) -/

theorem step_of_faulted {s : State} {f : FaultRecord} (h : s.fault = some f) : step s = .fault (.faulted f) := by
  simp only [step, stepCycle, State.status_faulted h]

theorem step_of_halted {s : State} (hf : s.fault = none) (hh : s.halted = true) : step s = .fault .halted := by
  simp only [step, stepCycle, State.status_halted hf hh]

/-! ### No meaning clears the bit `halted` (R35) -/

/-- Whether the place that a stage reads its instruction from is empty. -/
def State.latchEmpty (s : State) : Stage → Prop
  | .dispatch => s.ld = none
  | .int => s.lInt = none
  | .mul1 => s.lMul1 = none
  | .mul3 => s.lMul3 = none
  | .bru1 => s.lBru1 = none
  | .bru2 => s.lBru2 = none
  | .mem1 => s.lMem1 = none
  | .access => s.lAcc = none
  | .commit => s.headEntry = none

/-- Asked for a stage whose latch is empty, a meaning does nothing or refuses: it picks the stage's operation, and every such
operation looks at its latch first. -/
theorem exec_of_latchEmpty (i : Instr) {s : State} (h : s.latchEmpty s.stage) :
    exec i s = .next s ∨ exec i s = .refused .notAtThisStage := by
  cases hs : s.stage
  all_goals
    rw [hs, State.latchEmpty] at h
    cases i
  all_goals simp [exec, execAdd, execSub, execAddl, execSubl, execAnd, execOr, execXor, execMul, execCmp, execMovc, execLoad,
    execStore, execLdr, execStr, execJump, execJal, execBz, execBnz, execNop, execHalt, hs, h, dispatch, intStage, mul1Stage,
    mul3Stage, bru1Stage, bru2Stage, mem1Stage, accessLoad, accessStore, commitProducer, commitStore, commitBranch, commitJal,
    commitJump, commitNop, commitHalt]

/-- A commit writes the two bits of completion only where it retires a HALT, and then it sets both (R248). -/
theorem CommitEffect.halted_cases {i : Instr} {e : RobEntry} {s t : State} (h : CommitEffect i e s t) :
    (t.halted = s.halted ∧ t.haltRetired = s.haltRetired) ∨ (t.halted = true ∧ t.haltRetired = true) := by
  cases h with
  | producer rd => rw [s.retireHead_eq]; exact .inl ⟨rfl, rfl⟩
  | store => exact .inl ⟨rfl, rfl⟩
  | storeFault => exact .inl ⟨rfl, rfl⟩
  | plain => exact .inl ⟨rfl, rfl⟩
  | reset => exact .inl ⟨rfl, rfl⟩
  | jal rd => rw [s.retireHead_eq]; exact .inl ⟨rfl, rfl⟩
  | halt => exact .inr ⟨rfl, rfl⟩

theorem resolved_halted (s : State) (b : BruOp) (taken : Bool) : (resolved s b taken).halted = s.halted := by
  cases taken <;> rfl

/-- With its latch full a stage leaves the bit, or it is the commit of a HALT. -/
theorem runStage_halted {st : Stage} {i : Instr} {s t : State} (hs : s.stage = .dispatch) (hl : ¬ s.latchEmpty st)
    (h : runStage st i s = .next t) : t.halted = s.halted ∨ t.halted = true := by
  cases st with
  | dispatch =>
    obtain ⟨d, hd⟩ := Option.ne_none_iff_exists'.1 hl
    rw [runStage_dispatch_eq_exec i hs, exec_dispatch i s hs] at h
    rcases dispatch_cases i s d hd with ⟨r, _, h1⟩ | ⟨ps, _, _, h1⟩ | ⟨ps, _, _, h1⟩ <;> rw [h1] at h <;> cases h
    · exact .inl rfl
    · exact .inl rfl
    · rw [s.allocate_eq]; exact .inl rfl
  | int =>
    obtain ⟨u, hu⟩ := Option.ne_none_iff_exists'.1 hl
    rcases runStage_int i s u hs hu with ⟨_, r, z, _, _, h1⟩ | ⟨_, h1⟩ <;> rw [h1] at h <;> cases h
    exact .inl rfl
  | mul1 =>
    obtain ⟨u, hu⟩ := Option.ne_none_iff_exists'.1 hl
    rcases runStage_mul1 i s u hs hu with ⟨_, p, _, h1⟩ | ⟨_, h1⟩ <;> rw [h1] at h <;> cases h
    exact .inl rfl
  | mul3 =>
    obtain ⟨m, hm⟩ := Option.ne_none_iff_exists'.1 hl
    rcases runStage_mul3 i s m hs hm with ⟨_, h1⟩ | ⟨_, h1⟩ <;> rw [h1] at h <;> cases h
    exact .inl rfl
  | bru1 =>
    obtain ⟨u, hu⟩ := Option.ne_none_iff_exists'.1 hl
    rcases runStage_bru1 i s u hs hu with ⟨_, a, l, _, _, h1⟩ | ⟨_, h1⟩ <;> rw [h1] at h <;> cases h
    exact .inl rfl
  | bru2 =>
    obtain ⟨b, hb⟩ := Option.ne_none_iff_exists'.1 hl
    rcases runStage_bru2 i s b hs hb with ⟨_, taken, h1⟩ | ⟨_, h1⟩ <;> rw [h1] at h <;> cases h
    exact .inl (resolved_halted s b taken)
  | mem1 =>
    obtain ⟨u, hu⟩ := Option.ne_none_iff_exists'.1 hl
    rcases runStage_mem1 i s u hs hu with ⟨_, ea, data, _, _, h1⟩ | ⟨_, h1⟩ <;> rw [h1] at h <;> cases h
    rw [State.intoMem2_eq]; exact .inl rfl
  | access =>
    obtain ⟨m, hm⟩ := Option.ne_none_iff_exists'.1 hl
    rcases runStage_access i s m hs hm with ⟨_, ⟨r, _, h1⟩ | h1 | h1⟩ | ⟨_, h1⟩ <;> rw [h1] at h <;> cases h
    all_goals exact .inl rfl
  | commit =>
    obtain ⟨e, he⟩ := Option.ne_none_iff_exists'.1 hl
    obtain ⟨u, h1, hc⟩ := runStage_commit i s e hs he
    rw [h1] at h
    cases h
    exact hc.halted_cases.imp And.left And.left

theorem exec_keeps_halted {i : Instr} {s t : State} (h : exec i s = .next t) (hh : s.halted = true) : t.halted = true := by
  by_cases hl : s.latchEmpty s.stage
  · rcases exec_of_latchEmpty i hl with h1 | h1 <;> rw [h1] at h <;> cases h
    exact hh
  · have hl' : ¬ ({ s with stage := .dispatch } : State).latchEmpty s.stage := by
      cases hs : s.stage <;> rw [hs] at hl <;> exact hl
    have hr : runStage s.stage i { s with stage := .dispatch } = .next { t with stage := .dispatch } := by
      simp only [runStage, h, settle]
    rcases runStage_halted rfl hl' hr with h1 | h1
    · exact h1.trans hh
    · exact h1

/-! ### The bit `halted` after a step (R248) -/

theorem completion_unitsKeep (Q : Bool → Bool → Prop) : UnitsKeep (fun s => Q s.halted s.haltRetired) where
  target _ _ _ _ h _ _ _ _ := h
  mulWrite _ _ h _ := h
  mulPass _ h := h
  mulStart _ _ _ h _ _ _ := h
  int _ _ _ _ h _ _ _ := h
  fault _ _ h := h
  load _ _ _ h _ _ := h
  store _ _ h _ := h
  pass s h := by rw [passStage_eq]; exact h
  agen s u ea data h _ _ _ _ := by rw [State.intoMem2_eq]; exact h
  resolve _ _ taken h _ := by cases taken <;> exact h

theorem completion_frontKeeps (Q : Bool → Bool → Prop) : FrontKeeps (fun s => Q s.halted s.haltRetired) where
  fault _ _ h := h
  issue _ h := issueStage_keeps (P := fun s => Q s.halted s.haltRetired)
    (fun _ c _ _ h _ _ => by cases c <;> exact h) h
  dispatch s d ps h _ _ _ := by rw [s.allocate_eq]; exact h
  fetch s h := by rw [fetchStage_eq]; exact h

/-- A cycle starts with both bits of completion clear, and each commit leaves them or sets both. -/
theorem halted_eq_haltRetired {s t : State} (hst : s.stage = .dispatch) (h : step s = .next t) : t.halted = t.haltRetired := by
  have hstart : (startCycle s).halted = (startCycle s).haltRetired := (step_next h).2.1
  have hcommit : ∀ a, commitStage (startCycle s) = .next a → a.halted = a.haltRetired ∧ a.stage = .dispatch := fun a ha =>
    commitLoop_keeps (P := fun a => a.halted = a.haltRetired)
      (fun _ _ _ hs _ _ hc => hc.halted_cases.elim (fun hu => hu.1.trans (hs.trans hu.2.symm)) fun hu => hu.1.trans hu.2.symm)
      _ _ a hstart hst ha
  have hunits : ∀ a, beforeIssue s = .next a → a.halted = a.haltRetired ∧ a.stage = .dispatch := fun a ha =>
    andThen_keeps (P := fun a => a.halted = a.haltRetired ∧ a.stage = .dispatch) hcommit
      (fun b v hb hv => (completion_unitsKeep Eq).unitStages b v hb.1 hb.2 hv) ha
  exact step_of_halves hunits (completion_frontKeeps Eq) (fun _ h => h) (fun a h => by rw [endCycle_eq]; exact h) h

/-- Settles O13: the status is read from the fault record and the bit `halted`, which only a HALT's commit sets and nothing in
a cycle clears. -/
theorem haltedOrFaultedTakesNoStep : Obligations.HaltedOrFaultedTakesNoStep := by
  unfold Obligations.HaltedOrFaultedTakesNoStep
  refine ⟨fun s f hf => ?_, fun s hf hh => ?_, fun s hf hh => ?_, fun i s t => exec_keeps_halted,
    fun s t => halted_eq_haltRetired⟩
  · have hst := State.status_faulted hf
    exact ⟨hst, by simp [State.completed, hst], step_of_faulted hf⟩
  · have hst := State.status_halted hf hh
    exact ⟨hst, by simp [State.completed, hst], step_of_halted hf hh⟩
  · have hst := State.status_running hf hh
    exact ⟨hst, by simp [State.completed, hst]⟩

end Sys2Proof.Machine

/-! PROOF. Issue (O42): readiness read off the sources, the selection as the lowest ready slot, and the issue stage field by
field. -/

namespace Sys2Proof.Machine

/-! ### Readiness (R140, R141) -/

theorem State.ready_iff (s : State) (u : IqEntry) : s.ready u = true ↔
    ∀ q p, q ∈ [u.ps1, u.ps2, u.ps3] → q = some p → ∃ r, s.prf[p]? = some r ∧ r.hasResult = true := by
  have all : s.ready u = true ↔ ∀ q ∈ [u.ps1, u.ps2, u.ps3], s.sourceReady q = true := by
    simp [State.ready, and_assoc]
  simp only [all, s.sourceReady_iff]
  exact ⟨fun h q p hq => h q hq p, fun h q hq p => h q p hq⟩

/-- A micro-op waits iff some source it uses has no result. -/
theorem State.ready_eq_false_iff (s : State) (u : IqEntry) : s.ready u = false ↔
    ∃ q p, q ∈ [u.ps1, u.ps2, u.ps3] ∧ q = some p ∧ ∀ r, s.prf[p]? = some r → r.hasResult = false := by
  rw [← Bool.not_eq_true, s.ready_iff]
  push Not
  simp only [ne_eq, Bool.not_eq_true]

/-! ### The queue after issue (R142) -/

theorem takeSlot_same {iq : List (Option IqEntry)} {k : Nat} (h : k < iq.length) : (takeSlot iq (some k))[k]? = some none :=
  List.getElem?_set_self h

/-- A free slot stays free, whichever slot is taken. -/
theorem takeSlot_free {iq : List (Option IqEntry)} {k : Nat} (h : iq[k]? = some none) (o : Option Nat) :
    (takeSlot iq o)[k]? = some none := by
  by_cases ho : o = some k
  · rw [ho]
    exact takeSlot_same (List.getElem?_eq_some_iff.1 h).1
  · rw [takeSlot_other _ _ _ ho, h]

theorem length_takeSlot (iq : List (Option IqEntry)) (o : Option Nat) : (takeSlot iq o).length = iq.length := by
  cases o with
  | none => rfl
  | some k => exact List.length_set

theorem issueStage_frees {s : State} {c : FuClass} {k : Nat} (h : s.select c = some k) :
    (issueStage s).iq[k]? = some none := by
  obtain ⟨_, _, hk⟩ := (s.select_eq_some c k).1 h
  rw [issueStage_iq]
  cases c with
  | int => exact takeSlot_free (takeSlot_free (takeSlot_free (h ▸ takeSlot_same hk) _) _) _
  | mul => exact takeSlot_free (takeSlot_free (h ▸ takeSlot_same (by simpa only [length_takeSlot])) _) _
  | branch => exact takeSlot_free (h ▸ takeSlot_same (by simpa only [length_takeSlot])) _
  | mem => exact h ▸ takeSlot_same (by simpa only [length_takeSlot])

theorem issueStage_keeps_slot {s : State} {k : Nat} (h : ∀ c, s.select c ≠ some k) : (issueStage s).iq[k]? = s.iq[k]? := by
  rw [issueStage_iq, takeSlot_other _ _ _ (h .mem), takeSlot_other _ _ _ (h .branch), takeSlot_other _ _ _ (h .mul),
    takeSlot_other _ _ _ (h .int)]

/-! ### The other fields after issue -/

theorem issueStage_lInt (s : State) : (issueStage s).lInt = (s.issued .int).or s.lInt := by rw [issueStage_eq]

theorem issueStage_lMul1 (s : State) : (issueStage s).lMul1 = (s.issued .mul).or s.lMul1 := by rw [issueStage_eq]

theorem issueStage_lBru1 (s : State) : (issueStage s).lBru1 = (s.issued .branch).or s.lBru1 := by rw [issueStage_eq]

theorem issueStage_lMem1 (s : State) : (issueStage s).lMem1 = (s.issued .mem).or s.lMem1 := by rw [issueStage_eq]

theorem issueStage_rob (s : State) : (issueStage s).rob = (s.markReady (s.issued .mem)).rob := by rw [issueStage_eq]

theorem issueStage_frame (s : State) :
    { issueStage s with iq := s.iq, lInt := s.lInt, lMul1 := s.lMul1, lBru1 := s.lBru1, lMem1 := s.lMem1, rob := s.rob } = s := by
  rw [issueStage_eq]
  cases s.issued .mem <;> rfl

section
variable {s : State} {c : FuClass}

/-- The first latch of a unit whose class selects a slot. -/
theorem State.issued_or_of_select {k : Nat} {u : IqEntry} (h : s.select c = some k) (hu : s.iq[k]? = some (some u))
    (l : Option IqEntry) : (s.issued c).or l = some u := by
  rw [s.issued_of_select c k u h hu, Option.some_or]

/-- The first latch of a unit whose class selects nothing. -/
theorem State.issued_or_of_none (h : s.select c = none) (l : Option IqEntry) : (s.issued c).or l = l := by
  rw [s.issued_none c h, Option.none_or]

end

/-- Settles O42: the selection is the lowest ready slot of the class, different classes take different slots, and the issue
stage is one update of the queue, the four first latches and the memory-ready mark. -/
theorem issueStageEffect : Obligations.IssueStageEffect := by
  unfold Obligations.IssueStageEffect
  refine ⟨fun s c k => ?selection, fun s => ⟨fun k u _ ⟨c, _, hk⟩ => issueStage_frees hk, fun k h => ?unselected,
    fun k u hk hu => ?_, fun h => ?_, fun k u hk hu => ?_, fun h => ?_, fun k u hk hu => ?_, fun h => ?_,
    fun k u hk hu => ⟨?_, ?_⟩, fun h => ⟨?_, ?_⟩, issueStage_frame s⟩⟩
  case selection => simp only [s.select_eq_some c k, s.ready_iff, s.ready_eq_false_iff]
  case unselected =>
    refine issueStage_keeps_slot fun c hc => ?_
    obtain ⟨⟨u, hu, hcls, _⟩, _⟩ := (s.select_eq_some c k).1 hc
    exact h u c hu hcls hc
  · rw [issueStage_lInt, State.issued_or_of_select hk hu]
  · rw [issueStage_lInt, State.issued_or_of_none h]
  · rw [issueStage_lMul1, State.issued_or_of_select hk hu]
  · rw [issueStage_lMul1, State.issued_or_of_none h]
  · rw [issueStage_lBru1, State.issued_or_of_select hk hu]
  · rw [issueStage_lBru1, State.issued_or_of_none h]
  · rw [issueStage_lMem1, State.issued_or_of_select hk hu]
  · rw [issueStage_rob, s.issued_of_select .mem k u hk hu]
    rfl
  · rw [issueStage_lMem1, State.issued_or_of_none h]
  · rw [issueStage_rob, s.issued_none .mem h]
    rfl

end Sys2Proof.Machine

/-! PROOF. The integer instructions (O21 to O29): the integer stage and the commit of an INT instruction, once for the class. -/

namespace Sys2Proof.Machine

/-! ### The integer stage (R160) -/

/-- The result of an INT instruction on words of `w` bits, from its two source values (R161 to R169); no other class has one. -/
def intResult (w : Nat) : Instr → Word → Word → Word
  | .add _ _ _, a, b => wordAdd w a b
  | .sub _ _ _, a, b => wordSub w a b
  | .addl _ _ imm, a, _ => wordAdd w a imm
  | .subl _ _ imm, a, _ => wordSub w a imm
  | .and _ _ _, a, b => wordAnd a b
  | .or _ _ _, a, b => wordOr a b
  | .xor _ _ _, a, b => wordXor a b
  | .cmp _ _ _, a, b => wordSub w a b
  | .movc _ imm, _, _ => imm
  | _, _, _ => 0

/-- At the integer stage exec is the stage with the instruction's own result, and Z is set by the five flag setters alone. -/
theorem exec_int_eq_intStage {i : Instr} {s : State} (hc : i.cls = some .int) (hst : s.stage = .int) :
    exec i s = intStage (intResult s.xlen i) (writesZ i) s := by
  cases i
  case add => simp only [exec, execAdd, hst]; rfl
  case sub => simp only [exec, execSub, hst]; rfl
  case addl => simp only [exec, execAddl, hst]; rfl
  case subl => simp only [exec, execSubl, hst]; rfl
  case and => simp only [exec, execAnd, hst]; rfl
  case or => simp only [exec, execOr, hst]; rfl
  case xor => simp only [exec, execXor, hst]; rfl
  case cmp => simp only [exec, execCmp, hst]; rfl
  case movc => simp only [exec, execMovc, hst]; rfl
  all_goals simp [Instr.cls] at hc

/-- The integer stage with micro-op `u` in L.INT, whose sources have the values `a` and `b`. -/
theorem exec_int {i : Instr} {s : State} {u : IqEntry} {a b : Word} (hc : i.cls = some .int) (hst : s.stage = .int)
    (hu : s.lInt = some u) (ha : s.operand u.ps1 = a) (hb : s.operand u.ps2 = b) :
    exec i s = .next { s with
      rob := s.rob.modify u.rob (Option.map (fun e => e.finish (intResult s.xlen i a b)))
      z := flagAfter (writesZ i) (intResult s.xlen i a b) s.z
      lInt := none } := by
  rw [exec_int_eq_intStage hc hst, intStage, hu, ← ha, ← hb]
  rfl

/-- A source that is renamed to a slot of the file has the value of the slot (R14). -/
theorem State.operand_of_slot {s : State} {q : Option Nat} {p : Nat} {r : PhysReg} (hq : q = some p)
    (hr : s.prf[p]? = some r) : s.operand q = r.value := by
  simp only [State.operand, State.physValue, hq, hr]

/-- The integer stage where both sources are renamed to slots of the file. -/
theorem exec_int_of_slots {i : Instr} {s : State} {u : IqEntry} {p1 p2 : Nat} {r1 r2 : PhysReg} (hc : i.cls = some .int)
    (hst : s.stage = .int) (hu : s.lInt = some u) (hp1 : u.ps1 = some p1) (hp2 : u.ps2 = some p2)
    (hr1 : s.prf[p1]? = some r1) (hr2 : s.prf[p2]? = some r2) :
    exec i s = .next { s with
      rob := s.rob.modify u.rob (Option.map (fun e => e.finish (intResult s.xlen i r1.value r2.value)))
      z := flagAfter (writesZ i) (intResult s.xlen i r1.value r2.value) s.z
      lInt := none } :=
  exec_int hc hst hu (State.operand_of_slot hp1 hr1) (State.operand_of_slot hp2 hr2)

/-! ### Commit (R242) -/

/-- A producer that is no JAL retires the result of the head entry, and pops the entry. -/
theorem exec_commit_producer {i : Instr} {s : State} {e : RobEntry} {rd pd : Nat} (hrd : i.dst = some rd)
    (hc : i.ctl = false) (hst : s.stage = .commit) (hn : s.count ≠ 0) (he : s.rob[s.head]? = some (some e))
    (hpd : e.pd = some pd) : exec i s = .next (s.retire e.result rd pd).pop := by
  have hh : s.headEntry = some e := by simp [State.headEntry, hn, State.robAt, he]
  have hcommit : commitProducer rd s = .next (s.retire e.result rd pd).pop := by
    simp only [commitProducer, hh, State.retireHead, hpd]
  rw [← hcommit]
  cases i <;> cases hrd
  case add => simp only [exec, execAdd, hst]
  case sub => simp only [exec, execSub, hst]
  case addl => simp only [exec, execAddl, hst]
  case subl => simp only [exec, execSubl, hst]
  case and => simp only [exec, execAnd, hst]
  case or => simp only [exec, execOr, hst]
  case xor => simp only [exec, execXor, hst]
  case mul => simp only [exec, execMul, hst]
  case cmp => simp only [exec, execCmp, hst]
  case movc => simp only [exec, execMovc, hst]
  case load => simp only [exec, execLoad, hst]
  case ldr => simp only [exec, execLdr, hst]
  case jal => cases hc

/-! ### The records (R83) -/

theorem decodeRRR_of_lt {n a b c : Nat} (op : BitVec 5) {d : Option Nat} {imm : Word} {mk : Nat → Nat → Nat → Instr}
    (ha : a < n) (hb : b < n) (hc : c < n) : decodeRRR n ⟨op, some a, some b, some c, d, imm⟩ mk = .ok (mk a b c) :=
  Laws.decodeRRR_ok n op a b c d imm mk (by simp [ha, hb, hc])

theorem decodeRRI_of_lt {n w a b : Nat} (op : BitVec 5) {c d : Option Nat} {imm : Word} {mk : Nat → Nat → Word → Instr}
    (ha : a < n) (hb : b < n) (hi : isWord w imm) : decodeRRI n w ⟨op, some a, some b, c, d, imm⟩ mk = .ok (mk a b imm) :=
  Laws.decodeRRI_ok n w op a b c d imm mk (by simp [ha, hb, hi])

/-! ### The nine instructions (R161 to R169) -/

/-- Settles O21: `intResult` of ADD is the sum of the two slots, and `writesZ` holds of it. -/
theorem addMeaning : Obligations.AddMeaning := by
  unfold Obligations.AddMeaning
  intro rd rs1 rs2
  exact ⟨fun n w rs3 imm => decodeRRR_of_lt 0, fun s u p1 p2 r1 r2 => exec_int_of_slots rfl,
    fun s e pd => exec_commit_producer rfl rfl⟩

/-- Settles O22: `intResult` of SUB is the difference of the two slots, and `writesZ` holds of it. -/
theorem subMeaning : Obligations.SubMeaning := by
  unfold Obligations.SubMeaning
  intro rd rs1 rs2
  exact ⟨fun n w rs3 imm => decodeRRR_of_lt 1, fun s u p1 p2 r1 r2 => exec_int_of_slots rfl,
    fun s e pd => exec_commit_producer rfl rfl⟩

/-- Settles O23: `intResult` of ADDL is the sum of the slot and the immediate, whatever the second operand reads. -/
theorem addlMeaning : Obligations.AddlMeaning := by
  unfold Obligations.AddlMeaning
  intro rd rs1 imm
  exact ⟨fun n w rs2 rs3 => decodeRRI_of_lt 2,
    fun s u p1 r1 hst hu hp1 hr1 => exec_int rfl hst hu (State.operand_of_slot hp1 hr1) rfl,
    fun s e pd => exec_commit_producer rfl rfl⟩

/-- Settles O24: `intResult` of SUBL is the difference of the slot and the immediate, whatever the second operand reads. -/
theorem sublMeaning : Obligations.SublMeaning := by
  unfold Obligations.SublMeaning
  intro rd rs1 imm
  exact ⟨fun n w rs2 rs3 => decodeRRI_of_lt 3,
    fun s u p1 r1 hst hu hp1 hr1 => exec_int rfl hst hu (State.operand_of_slot hp1 hr1) rfl,
    fun s e pd => exec_commit_producer rfl rfl⟩

/-- Settles O25: `intResult` of AND is the bitwise AND of the two slots, and `writesZ` fails of it. -/
theorem andMeaning : Obligations.AndMeaning := by
  unfold Obligations.AndMeaning
  intro rd rs1 rs2
  exact ⟨fun n w rs3 imm => decodeRRR_of_lt 4, fun s u p1 p2 r1 r2 => exec_int_of_slots rfl,
    fun s e pd => exec_commit_producer rfl rfl⟩

/-- Settles O26: `intResult` of OR is the bitwise OR of the two slots, and `writesZ` fails of it. -/
theorem orMeaning : Obligations.OrMeaning := by
  unfold Obligations.OrMeaning
  intro rd rs1 rs2
  exact ⟨fun n w rs3 imm => decodeRRR_of_lt 5, fun s u p1 p2 r1 r2 => exec_int_of_slots rfl,
    fun s e pd => exec_commit_producer rfl rfl⟩

/-- Settles O27: `intResult` of XOR is the bitwise exclusive OR of the two slots, and `writesZ` fails of it. -/
theorem xorMeaning : Obligations.XorMeaning := by
  unfold Obligations.XorMeaning
  intro rd rs1 rs2
  exact ⟨fun n w rs3 imm => decodeRRR_of_lt 6, fun s u p1 p2 r1 r2 => exec_int_of_slots rfl,
    fun s e pd => exec_commit_producer rfl rfl⟩

/-- Settles O28: `intResult` of CMP is the difference of the two slots, which commits like any result, and `writesZ` holds
of it. -/
theorem cmpMeaning : Obligations.CmpMeaning := by
  unfold Obligations.CmpMeaning
  intro rd rs1 rs2
  exact ⟨fun n w rs3 imm => decodeRRR_of_lt 8, fun s u p1 p2 r1 r2 => exec_int_of_slots rfl,
    fun s e pd => exec_commit_producer rfl rfl⟩

/-- Settles O29: `intResult` of MOVC is the immediate, whatever the operands read. -/
theorem movcMeaning : Obligations.MovcMeaning := by
  unfold Obligations.MovcMeaning
  intro rd imm
  exact ⟨fun n w rs1 rs2 rs3 hd hi => Laws.decodeRI_ok n w 9 rd rs1 rs2 rs3 imm _ (by simp [hd, hi]),
    fun s u hst hu => exec_int rfl hst hu rfl rfl, fun s e pd => exec_commit_producer rfl rfl⟩

end Sys2Proof.Machine

/-! PROOF. An ADD alone in the machine (O60): the cycles of a machine in which at most the queue, the integer stage and the ROB
hold anything, the three cycles of a lone INT micro-op from the queue to its commit, and the dispatch before them. -/

namespace Sys2Proof.Machine

/-! ### Cycles with a front end that fetches nothing -/

/-- The machine may take a cycle, the latches of the front end are empty and stay so, and no bit of a past cycle is set. -/
structure State.FrontIdle (s : State) : Prop extends s.Running where
  redirect : s.redirect = false
  haltRetired : s.haltRetired = false
  lf : s.lf = none
  ld : s.ld = none
  noFetch : s.ifetch s.pc = none

/-- The front end is idle, and of the unit latches only L.INT may hold a micro-op. -/
structure State.IntOnly (s : State) : Prop extends s.FrontIdle where
  lMul1 : s.lMul1 = none
  lMul2 : s.lMul2 = none
  lMul3 : s.lMul3 = none
  lBru1 : s.lBru1 = none
  lBru2 : s.lBru2 = none
  lMem1 : s.lMem1 = none
  memPass : ∀ m ∈ s.memPass, m = none
  lAcc : s.lAcc = none

theorem fetchStage_of_ifetch_none {s : State} (hf : s.lf = none) (hi : s.ifetch s.pc = none) : fetchStage s = s := by
  by_cases hc : s.redirect = true ∨ s.branchPending = true
  · exact fetchStage_of_closed hc
  · push Not at hc
    exact fetchStage_of_no_instruction (by simpa using hc.1) (by simpa using hc.2) hf hi

theorem endCycle_of_not_haltRetired {s : State} (h : s.haltRetired = false) : endCycle s = s := by
  simp [endCycle, h]

namespace State.FrontIdle

variable {s : State} (h : s.FrontIdle)
include h

theorem startCycle : startCycle s = s := by
  obtain ⟨⟨_, _, _⟩, hr, hh, _, _, _⟩ := h
  cases s
  simp only at hr hh
  subst hr hh
  rfl

theorem issueStage : (issueStage s).FrontIdle := by
  rw [issueStage_eq]
  cases s.issued .mem <;> exact { h with }

theorem fetchAndEnd : endCycle (fetchStage s) = s := by
  rw [fetchStage_of_ifetch_none h.lf h.noFetch, endCycle_of_not_haltRetired h.haltRetired]

/-- Issue to the end of the cycle is issue alone. -/
theorem frontStages : frontStages s = .next (Machine.issueStage s) := by
  have hi := h.issueStage
  simp only [Machine.frontStages, issueAndDispatch, dispatchStage, hi.ld, andThen, hi.fault, Machine.fetchAndEnd,
    hi.fetchAndEnd]
  rfl

end State.FrontIdle

namespace State.IntOnly

variable {s : State} (h : s.IntOnly)
include h

theorem memoryStages : memoryStages s = .next s := by
  simp [Machine.memoryStages, accessStage, agenStage, andThen, h.lAcc, h.lMem1, h.fault, passStage_of_empty h.memPass h.lAcc]

/-- The integer stage is the only one of the execute stages that does anything. -/
theorem executeStages : executeStages s = integerStage s := by
  simp [Machine.executeStages, resolveStage, targetStage, mulWriteStage, mulStartStage, andThen, h.lBru2,
    h.lBru1, h.lMul3, h.lMul1, h.fault, mulPassStage_of_empty h.lMul2 h.lMul3]

/-- A step commits, runs the integer stage and issues. -/
theorem step {c t : State} (hc : commitStage s = .next c) (hci : c.IntOnly) (ht : integerStage c = .next t)
    (hti : t.FrontIdle) : step s = .next (issueStage t) := by
  have hu : unitStages c = .next t := by
    rw [unitStages, hci.memoryStages, andThen, hci.fault]
    exact hci.executeStages.trans ht
  rw [step_eq_cycle h.fault h.halted, cycle, beforeIssue, h.startCycle, hc, andThen, hci.fault]
  simp only [Option.isSome_none, Bool.false_eq_true, if_false, hu, andThen, hti.fault]
  exact hti.frontStages

end State.IntOnly

/-! ### The stages of an INT micro-op -/

/-- A stage in a cycle, from exec at that stage. -/
theorem runStage_of_exec {st : Stage} {i : Instr} {s t : State}
    (h : exec i { s with stage := st } = .next { t with stage := st }) (ht : t.stage = .dispatch) :
    runStage st i s = .next t := by
  rw [runStage, h]
  exact congrArg Host.Outcome.next (State.with_stage_self ht)

/-- The result of an INT micro-op, from the source values that the physical registers hold. -/
def State.intValue (s : State) (u : IqEntry) : Word := intResult s.xlen u.insn (s.operand u.ps1) (s.operand u.ps2)

/-- The state after the issue of INT micro-op `u` from slot `k` (R142). -/
def State.intIssued (s : State) (k : Nat) (u : IqEntry) : State := { s with iq := s.iq.set k none, lInt := some u }

/-- The state after the integer stage of micro-op `u` (R160). -/
def State.intDone (s : State) (u : IqEntry) : State :=
  { s with
    rob := s.rob.modify u.rob (Option.map (fun e => e.finish (s.intValue u)))
    z := flagAfter (writesZ u.insn) (s.intValue u) s.z
    lInt := none }

theorem integerStage_of_empty {s : State} (h : s.lInt = none) : integerStage s = .next s := by
  rw [integerStage, h]

theorem integerStage_of_int {s : State} {u : IqEntry} (hst : s.stage = .dispatch) (hu : s.lInt = some u)
    (hc : u.insn.cls = some .int) : integerStage s = .next (s.intDone u) := by
  rw [integerStage, hu]
  exact runStage_of_exec (exec_int hc rfl hu rfl rfl) hst

theorem State.headEntry_of_getElem? {s : State} {e : RobEntry} (hn : s.count ≠ 0) (he : s.rob[s.head]? = some (some e)) :
    s.headEntry = some e := by
  simp [State.headEntry, hn, State.robAt, he]

/-- The commit stage with one entry in flight, a finished producer that is no JAL. -/
theorem commitStage_of_one {s : State} {e : RobEntry} {rd pd : Nat} (hst : s.stage = .dispatch) (hn : s.count = 1)
    (he : s.rob[s.head]? = some (some e)) (hv : e.resultValid = true) (hrd : e.insn.dst = some rd)
    (hc : e.insn.ctl = false) (hpd : e.pd = some pd) : commitStage s = .next (s.retire e.result rd pd).pop := by
  have hn0 : s.count ≠ 0 := hn ▸ Nat.one_ne_zero
  have ht : runStage .commit e.insn s = .next (s.retire e.result rd pd).pop :=
    runStage_of_exec (exec_commit_producer hrd hc rfl hn0 he hpd) hst
  rw [commitStage, hn, commitLoop_succ (State.headEntry_of_getElem? hn0 he) hv ht 0]
  split <;> rfl

/-! ### A lone INT micro-op, from the queue to its commit -/

/-- Micro-op `u` of class INT is the only one in the machine: it is ready and waits in slot `k` of the queue, and its ROB entry
`e` is the only one. -/
structure State.LoneInt (k : Nat) (u : IqEntry) (e : RobEntry) (s : State) : Prop extends s.IntOnly where
  lInt : s.lInt = none
  slot : s.iq[k]? = some (some u)
  alone : ∀ j v, s.iq[j]? = some (some v) → j = k
  cls : u.insn.cls = some .int
  ready : s.ready u = true
  count : s.count = 1
  entry : s.rob[s.head]? = some (some e)
  rob : u.rob = s.head
  insn : e.insn = u.insn
  waits : e.resultValid = false

/-- The state after the commit of INT micro-op `u` from slot `k`, which retires into slot `pd` for register `rd` (R242). -/
def State.intCommitted (s : State) (k : Nat) (u : IqEntry) (rd pd : Nat) : State :=
  (((s.intIssued k u).intDone u).retire (s.intValue u) rd pd).pop

/-- The first step of a run (R100). -/
theorem run_succ {s t : State} (h : step s = .next t) (n : Nat) : core.run (n + 1) s = core.run n t := by
  simp only [Host.Core.run, show core.step s = .next t from h]

namespace State.LoneInt

variable {k : Nat} {u : IqEntry} {e : RobEntry} {s : State} (h : s.LoneInt k u e)
include h

theorem issueStage : issueStage s = s.intIssued k u := by
  have hint : s.select .int = some k := (s.select_eq_some .int k).2
    ⟨⟨u, h.slot, h.cls, h.ready⟩, fun j v hj hv => absurd (h.alone j v hv) (Nat.ne_of_lt hj),
      (List.getElem?_eq_some_iff.1 h.slot).1⟩
  have hnone : ∀ c, .int ≠ c → s.select c = none := by
    intro c hc
    cases hj : s.select c with
    | none => rfl
    | some j =>
      obtain ⟨⟨v, hv, _, _⟩, _, _⟩ := (s.select_eq_some c j).1 hj
      exact absurd (h.alone j v hv ▸ hj) (s.select_ne hc hint)
  simp only [Machine.issueStage, hint, hnone .mul (by decide), hnone .branch (by decide), hnone .mem (by decide),
    State.issueFrom, h.slot, Option.join_some, State.place, State.intIssued]

theorem queue_empty_after_issue : ∀ x ∈ (s.intIssued k u).iq, x = none := by
  intro x hx
  rcases x with - | v
  · rfl
  · obtain ⟨j, hj⟩ := List.mem_iff_getElem?.1 hx
    by_cases hjk : k = j
    · subst hjk
      simp [State.intIssued, List.getElem?_set_self'] at hj
    · rw [State.intIssued, List.getElem?_set_ne hjk] at hj
      exact absurd (h.alone j v hj).symm hjk

theorem head_waits : ∀ x, s.headEntry = some x → x.resultValid = false := by
  intro x hx
  rw [State.headEntry_of_getElem? (by simp [h.count]) h.entry] at hx
  cases hx
  exact h.waits

/-- The three cycles of the micro-op: issue, the integer stage, commit (R170). -/
theorem run {rd pd : Nat} (hrd : u.insn.dst = some rd) (hpd : e.pd = some pd) :
    core.run 3 s = .next (s.intCommitted k u rd pd) := by
  have hi : (s.intIssued k u).IntOnly := { h.toIntOnly with }
  have hd : ((s.intIssued k u).intDone u).IntOnly := { h.toIntOnly with }
  have hc : (s.intCommitted k u rd pd).IntOnly := { h.toIntOnly with }
  have hempty := h.queue_empty_after_issue
  have hentry : ((s.intIssued k u).intDone u).rob[s.head]? = some (some (e.finish (s.intValue u))) := by
    simp only [State.intDone, State.intIssued, List.getElem?_modify, h.rob, h.entry]
    rfl
  have hissue : step s = .next (s.intIssued k u) :=
    h.issueStage ▸ h.step (commitStage_of_not_valid h.head_waits) h.toIntOnly (integerStage_of_empty h.lInt) h.toFrontIdle
  have hint : step (s.intIssued k u) = .next ((s.intIssued k u).intDone u) := by
    rw [hi.step (commitStage_of_not_valid h.head_waits) hi (integerStage_of_int h.stage rfl h.cls) hd.toFrontIdle]
    exact congrArg Host.Outcome.next (issueStage_of_empty hempty)
  have hcommit : step ((s.intIssued k u).intDone u) = .next (s.intCommitted k u rd pd) := by
    have hctl : e.insn.ctl = false := by simp [Instr.ctl, h.insn, h.cls]
    have hcs := commitStage_of_one (s := (s.intIssued k u).intDone u) h.stage h.count hentry rfl (h.insn ▸ hrd) hctl hpd
    rw [hd.step hcs hc (integerStage_of_empty rfl) hc.toFrontIdle]
    exact congrArg Host.Outcome.next (issueStage_of_empty hempty)
  rw [run_succ hissue, run_succ hint, run_succ hcommit]
  rfl

end State.LoneInt

/-! ### The free slots, and what dispatch leaves (R112, R114) -/

theorem State.physHasResult_claimDest {s : State} {i : Instr} {p : Nat} (h : s.destFor i ≠ some p) :
    (s.claimDest i).physHasResult p = s.physHasResult p := by
  cases hp : s.destFor i with
  | none => rw [State.claimDest_of_none hp]
  | some pd =>
    obtain ⟨rd, hrd⟩ := i.producer_iff.1 (State.destFor_eq_some.1 hp).1
    have hne : pd ≠ p := fun he => h (he ▸ hp)
    simp only [State.claimDest_of_dst hrd hp, State.physHasResult, State.renameDest_prf, claimSlot,
      List.getElem?_modify_ne _ _ hne]

theorem sameArch_allocate (s : State) (pc : Word) (i : Instr) (ps : List Nat) :
    SameArch s ((startCycle s).allocate pc i ps) := by
  rw [State.allocate_eq]
  exact ⟨rfl, State.claimDest_values _ _, rfl, rfl, rfl⟩

theorem SameArch.physValue {s t : State} (h : SameArch s t) (p : Nat) : t.physValue p = s.physValue p := by
  rw [State.physValue_eq, State.physValue_eq, h.values]

theorem SameArch.length_prf {s t : State} (h : SameArch s t) : t.prf.length = s.prf.length := by
  simpa using congrArg List.length h.values

theorem State.exists_freePhys {s : State} (h : ∃ r ∈ s.prf, r.busy = false) : ∃ pd, s.freePhys = some pd := by
  obtain ⟨r, hr, hb⟩ := h
  exact Option.ne_none_iff_exists'.1 fun hn => by simp [s.freePhys_eq_none.1 hn r hr] at hb

theorem State.BackEndIdle.exists_freeIq {s : State} (h : s.BackEndIdle) (hq : s.iq ≠ []) : ∃ k, s.freeIq = some k := by
  obtain ⟨e, he⟩ := List.exists_mem_of_ne_nil _ hq
  exact Option.ne_none_iff_exists'.1 fun hn => s.freeIq_eq_none.1 hn e he (h.iq e he)

/-- In a queue that was empty only the slot that was filled holds a micro-op. -/
theorem eq_slot_of_set {iq : List (Option IqEntry)} (h : ∀ e ∈ iq, e = none) {k j : Nat} {u v : IqEntry}
    (hj : (iq.set k (some u))[j]? = some (some v)) : j = k := by
  by_contra hne
  rw [List.getElem?_set_ne (Ne.symm hne)] at hj
  exact absurd (h _ (List.mem_of_getElem? hj)) (by simp)

theorem State.RobOk.tail_eq_head {s : State} (h : s.RobOk) (hn : s.count = 0) : s.tail = s.head := by
  rw [h.tail, hn, Nat.add_zero, Nat.mod_eq_of_lt h.head]

/-! ### The dispatch of an INT instruction with nothing in flight -/

section
variable {s : State} {d : Fetched} {ps : List Nat} {k : Nat} (hr : s.Running) (hi : s.BackEndIdle) (hrob : s.RobOk)
  (hlf : s.lf = none) (hfetch : s.ifetch s.pc = none) (hc : d.insn.cls = some .int) (hk : s.freeIq = some k)
  (hres : ∀ p ∈ ps, s.physHasResult p = true ∧ s.destFor d.insn ≠ some p)
include hr hi hrob hlf hfetch hc hk hres

/-- Dispatch of an INT instruction whose sources have results, with nothing in flight, leaves it alone in the machine. -/
theorem allocate_loneInt :
    ((startCycle s).allocate d.pc d.insn ps).LoneInt k (s.microOp d.insn ps) (s.robEntryFor d.pc d.insn ps) := by
  have hb : (startCycle s).bypasses d.insn ps = false := State.bypasses_of_not_mem (by simp [hc]) ps
  have htail := hrob.tail_eq_head hi.count
  have hready : ∀ j : Nat, ((startCycle s).claimDest d.insn).sourceReady ps[j]? = true := by
    intro j
    cases hp : ps[j]? with
    | none => rfl
    | some p =>
      obtain ⟨hp1, hp2⟩ := hres p (List.mem_of_getElem? hp)
      exact (State.physHasResult_claimDest (s := startCycle s) hp2).trans hp1
  rw [State.allocate_eq, State.enqueue_of_slot (by simp [hc]) hb hk]
  exact { hr, hi with
    redirect := rfl, haltRetired := rfl, lf := hlf, ld := rfl, noFetch := hfetch
    slot := List.getElem?_set_self (List.getElem?_eq_some_iff.1 (State.freeIq_eq_some hk)).1
    alone := fun j v hj => eq_slot_of_set hi.iq hj
    cls := hc
    ready := Bool.and_eq_true_iff.2 ⟨Bool.and_eq_true_iff.2 ⟨hready 0, hready 1⟩, hready 2⟩
    count := congrArg (· + 1) hi.count
    entry := by
      show (s.rob.set s.tail _)[s.head]? = _
      rw [htail]
      exact List.getElem?_set_self hrob.head
    rob := htail
    insn := rfl
    waits := by simp [State.robEntryFor, Instr.validAtDispatch, hc] }

variable (hd : s.ld = some d) (hps : d.insn.srcs.map (fun r => s.srat[r]?) = ps.map (fun p => some (some p)))
  {pd : Nat} (hpd : s.destFor d.insn = some pd)
include hd hps hpd

theorem step_dispatches_lone : step s = .next ((startCycle s).allocate d.pc d.insn ps) := by
  have hlone := allocate_loneInt hr hi hrob hlf hfetch hc hk hres
  have hroom : s.count < s.rob.length := hi.count ▸ Nat.zero_lt_of_lt hrob.head
  have hphys : (startCycle s).freePhys = some pd := (State.destFor_eq_some.1 hpd).2
  have hqueue : (startCycle s).freeIq = some k := hk
  have hexec : exec d.insn (startCycle s) = .next ((startCycle s).allocate d.pc d.insn ps) :=
    exec_allocates_of_free hr.stage hd hps hroom (fun _ => ne_of_eq_of_ne hphys (by simp))
      fun _ _ => ne_of_eq_of_ne hqueue (by simp)
  rw [quietStep hr hi hd hexec, hlone.fault, hlone.fetchAndEnd]
  rfl

/-- An INT producer alone in the machine takes four cycles (R170). -/
theorem run_lone_int {rd : Nat} (hrd : d.insn.dst = some rd) : core.run 4 s =
    .next (((startCycle s).allocate d.pc d.insn ps).intCommitted k (s.microOp d.insn ps) rd pd) := by
  rw [run_succ (step_dispatches_lone hr hi hrob hlf hfetch hc hk hres hd hps hpd)]
  exact (allocate_loneInt hr hi hrob hlf hfetch hc hk hres).run hrd hpd

end

/-! ### The architectural registers after the commit (R21, R243) -/

theorem installResult_values (prf : List PhysReg) (p : Nat) (v : Word) :
    (installResult prf p v).map (fun r => r.value) = (prf.map (fun r => r.value)).set p v := by
  refine List.ext_getElem (by simp [installResult]) fun j h1 h2 => ?_
  simp only [installResult, List.getElem_map, List.getElem_modify, List.getElem_set]
  split <;> rfl

/-- Freeing the superseded slot leaves its value (R25), so Retire writes the value of its own slot alone. -/
theorem State.retire_values {s : State} (v : Word) (rd pd : Nat) :
    (s.retire v rd pd).prf.map (fun r => r.value) = (s.prf.map (fun r => r.value)).set pd v := by
  have hfree : (freeSlot s.prf (s.superseded rd pd)).map (fun r => r.value) = s.prf.map (fun r => r.value) := by
    cases s.superseded rd pd with
    | none => rfl
    | some p => exact map_modify_of_comp_eq s.prf p fun _ => rfl
  rw [State.retire_prf, installResult_values, hfree]

theorem State.archReg_retire_same {s : State} {rd pd : Nat} (v : Word) (hrd : rd < s.rrat.length) (hpd : pd < s.prf.length) :
    (s.retire v rd pd).archReg rd = some v := by
  have hret : (s.retire v rd pd).retired rd = some pd := by simp [State.retired, hrd]
  simp only [State.archReg, hret, State.physValue_eq, State.retire_values]
  simp [hpd]

theorem State.archReg_retire_other {s : State} {r rd pd : Nat} (v : Word) (hr : r ≠ rd) (hpd : s.retired r ≠ some pd) :
    (s.retire v rd pd).archReg r = s.archReg r := by
  have hret : (s.retire v rd pd).retired r = s.retired r := by
    simp [State.retired, List.getElem?_set_ne (Ne.symm hr)]
  rw [State.archReg, State.archReg, hret]
  cases hp : s.retired r with
  | none => rfl
  | some p =>
    have hne : pd ≠ p := fun he => hpd (he ▸ hp)
    simp only [State.physValue_eq, State.retire_values, List.getElem?_set_ne hne]

theorem State.archReg_eq_some {s : State} {r : Nat} {v : Word} :
    s.archReg r = some v ↔ ∃ p, s.retired r = some p ∧ s.physValue p = v := by
  unfold State.archReg
  cases s.retired r <;> simp

/-- A slot that holds an architectural value is busy, so it is never the free one (R253). -/
theorem State.FreeListOk.freePhys_ne_retired {s : State} (h : s.FreeListOk) {r p pd : Nat} (hpd : s.freePhys = some pd)
    (hp : s.retired r = some p) : p ≠ pd := by
  have hmem : p ∈ s.owned := by
    refine List.mem_append_left _ (List.mem_filterMap.2 ⟨some p, ?_, rfl⟩)
    exact List.mem_of_getElem? (Option.join_eq_some_iff.1 hp)
  rintro rfl
  exact (State.freePhys_some hpd).2 ((s.freeListOk_iff.1 h).2 p |>.2 hmem)

/-- Settles O60: dispatch leaves the ADD alone in the machine, three cycles commit it, and the slot it is given holds no
architectural value. -/
theorem loneAddCommitsInFourCycles : Obligations.LoneAddCommitsInFourCycles := by
  unfold Obligations.LoneAddCommitsInFourCycles
  intro s d rd rs1 rs2 a b hr hi hrob hren hins hfree hd hadd hlf hfetch hiq hslot ha hb hres1 hres2
  obtain ⟨p1, hp1, rfl⟩ := State.archReg_eq_some.1 ha
  obtain ⟨p2, hp2, rfl⟩ := State.archReg_eq_some.1 hb
  have hc : d.insn.cls = some .int := by rw [hadd]; rfl
  have hrd : d.insn.dst = some rd := by rw [hadd]; rfl
  have hrdlt : rd < s.rrat.length := Instr.dst_lt_of_wf (hins.ld d hd) hrd
  obtain ⟨pd, hpd⟩ := State.exists_freePhys hslot
  obtain ⟨k, hk⟩ := hi.exists_freeIq hiq
  have hdest : s.destFor d.insn = some pd := State.destFor_eq_some.2 ⟨d.insn.producer_iff.2 ⟨rd, hrd⟩, hpd⟩
  have hps : d.insn.srcs.map (fun r => s.srat[r]?) = [p1, p2].map (fun p => some (some p)) := by
    rw [hadd, hren.srat_eq_rrat hi.count]
    simp [Instr.srcs, Option.join_eq_some_iff.1 hp1, Option.join_eq_some_iff.1 hp2]
  have hres : ∀ p ∈ [p1, p2], s.physHasResult p = true ∧ s.destFor d.insn ≠ some p := by
    have hother : ∀ {r p}, s.retired r = some p → s.destFor d.insn ≠ some p := fun hp he =>
      hfree.freePhys_ne_retired hpd hp (Option.some.inj (he.symm.trans hdest))
    simpa using ⟨⟨hres1 p1 hp1, hother hp1⟩, ⟨hres2 p2 hp2, hother hp2⟩⟩
  have hrun := run_lone_int hr hi hrob hlf hfetch hc hk hres hd hps hdest hrd
  have hlone := allocate_loneInt hr hi hrob hlf hfetch hc hk hres
  have harch := sameArch_allocate s d.pc d.insn [p1, p2]
  have hxlen : ((startCycle s).allocate d.pc d.insn [p1, p2]).xlen = s.xlen := by rw [State.allocate_eq]; rfl
  generalize (startCycle s).allocate d.pc d.insn [p1, p2] = t at *
  have hv : t.intValue (s.microOp d.insn [p1, p2]) =
      wrap s.xlen (signed s.xlen (s.physValue p1) + signed s.xlen (s.physValue p2)) := by
    rw [← harch.physValue, ← harch.physValue, ← hxlen]
    simp only [State.intValue, State.microOp, hadd]
    rfl
  refine ⟨_, hrun, ?count, ?rd, fun r hrr => ?other, ?z, harch.dmem, hlone.halted, hlone.fault⟩
  case count => exact congrArg (· - 1) hlone.count
  case rd =>
    rw [← hv]
    exact State.archReg_retire_same (s := t) _ (harch.rrat ▸ hrdlt) (harch.length_prf ▸ (State.freePhys_some hpd).1)
  case other =>
    rw [← harch.archReg]
    refine State.archReg_retire_other (s := t) _ hrr fun hp => ?_
    rw [State.retired, harch.rrat] at hp
    exact hfree.freePhys_ne_retired hpd hp rfl
  case z =>
    rw [← hv]
    simp only [State.intCommitted, State.pop_z, State.retire_z, State.intDone, State.microOp, hadd]
    rfl

end Sys2Proof.Machine

/-! PROOF. The multiplication (O30): the stages MUL1 and MUL3 of MUL with their latch full, and all three with their latches
empty. -/

namespace Sys2Proof.Machine

/-! ### Full latches (R190, R192) -/

/-- MUL1 where both sources are renamed to slots of the file: the product goes to L.MUL2 (R190, R193). -/
theorem exec_mul1_of_slots {rd rs1 rs2 : Nat} {s : State} {u : IqEntry} {p1 p2 : Nat} {r1 r2 : PhysReg}
    (hst : s.stage = .mul1) (hu : s.lMul1 = some u) (hp1 : u.ps1 = some p1) (hp2 : u.ps2 = some p2)
    (hr1 : s.prf[p1]? = some r1) (hr2 : s.prf[p2]? = some r2) :
    exec (.mul rd rs1 rs2) s =
      .next { s with lMul2 := some { entry := u, prod := wordMul s.xlen r1.value r2.value }, lMul1 := none } := by
  simp only [exec, execMul, hst, mul1Stage, hu, State.operand_of_slot hp1 hr1, State.operand_of_slot hp2 hr2]

/-- MUL3 with its latch full: the product is the result of the entry, and the entry is finished (R192). -/
theorem exec_mul3 {rd rs1 rs2 : Nat} {s : State} {m : MulOp} (hst : s.stage = .mul3) (hm : s.lMul3 = some m) :
    exec (.mul rd rs1 rs2) s =
      .next { s with rob := s.rob.modify m.entry.rob (Option.map (fun e => e.finish m.prod)), lMul3 := none } := by
  simp only [exec, execMul, hst, mul3Stage, hm, State.robUpdate]

/-! ### Empty latches -/

theorem mulStartStage_of_empty {s : State} (h : s.lMul1 = none) : mulStartStage s = .next s := by
  simp only [mulStartStage, h]

theorem mulWriteStage_of_empty {s : State} (h : s.lMul3 = none) : mulWriteStage s = .next s := by
  simp only [mulWriteStage, h]

/-- Settles O30: `wordMul` at MUL1 is the wrapped product, `RobEntry.finish` at MUL3 sets the result and its valid bit, and MUL
commits as every producer that is no JAL. -/
theorem mulMeaning : Obligations.MulMeaning := by
  unfold Obligations.MulMeaning
  intro rd rs1 rs2
  refine ⟨?decoded, ?mul1, ?mul2, ?mul3, ?empty, ?commit⟩
  case decoded => exact fun n w rs3 imm => decodeRRR_of_lt 7
  case mul1 => exact fun s u p1 p2 r1 r2 => exec_mul1_of_slots
  case mul2 => exact fun s => rfl
  case mul3 => exact fun s m => exec_mul3
  case empty => exact fun s => ⟨mulStartStage_of_empty, mulWriteStage_of_empty, mulPassStage_of_empty⟩
  case commit => exact fun s e pd => exec_commit_producer rfl rfl

end Sys2Proof.Machine

/-! PROOF. The control-flow instructions (O31 to O34): their stages BRU1 and BRU2 once for the class, and their commits. -/

namespace Sys2Proof.Machine

/-! ### BRU1 (R200) -/

/-- The target and the link of a control-flow instruction in state `s`, from the value `a` of its first source and its
address `pc` (R204 to R207); no other class has them. -/
def bruResult (s : State) : Instr → Word → Word → Word × Word
  | .jump _ imm, a, _ => (wordAdd s.xlen a imm, 0)
  | .jal _ _ imm, a, pc => (wordAdd s.xlen a imm, s.nextPc pc)
  | .bz imm, _, pc => (wordAdd s.xlen pc imm, 0)
  | .bnz imm, _, pc => (wordAdd s.xlen pc imm, 0)
  | _, _, _ => (0, 0)

/-- At BRU1 exec is the stage with the instruction's own target and link. -/
theorem exec_bru1_eq_bru1Stage {i : Instr} {s : State} (hc : i.cls = some .branch) (hst : s.stage = .bru1) :
    exec i s = bru1Stage (bruResult s i) s := by
  cases i
  case jump => simp only [exec, execJump, hst]; rfl
  case jal => simp only [exec, execJal, hst]; rfl
  case bz => simp only [exec, execBz, hst]; rfl
  case bnz => simp only [exec, execBnz, hst]; rfl
  all_goals simp [Instr.cls] at hc

/-- BRU1 with micro-op `u` in L.BRU1, whose first source has the value `a` and whose ROB entry is `e`. -/
theorem exec_bru1 {i : Instr} {s : State} {u : IqEntry} {e : RobEntry} {a : Word} (hc : i.cls = some .branch)
    (hst : s.stage = .bru1) (hu : s.lBru1 = some u) (he : s.rob[u.rob]? = some (some e)) (ha : s.operand u.ps1 = a) :
    exec i s = .next { s with
      lBru2 := some { entry := u, target := (bruResult s i a e.pc).1, link := (bruResult s i a e.pc).2 }
      lBru1 := none } := by
  have hpc : s.insnPc u = e.pc := by simp [State.insnPc, State.robAt, he]
  rw [exec_bru1_eq_bru1Stage hc hst, bru1Stage, hu, ← ha, ← hpc]

/-! ### BRU2 (R201 to R203) -/

/-- The outcome of a control-flow instruction where the flag is `z` (R204 to R207): BZ and BNZ ask the flag. -/
def branchTaken (z : Bool) : Instr → Bool
  | .bz _ => z
  | .bnz _ => !z
  | _ => true

/-- BRU2 with its latch full: the instruction is resolved with its own outcome. -/
theorem exec_bru2 {i : Instr} {s : State} {b : BruOp} {k : Bool} (hc : i.cls = some .branch) (hst : s.stage = .bru2)
    (hb : s.lBru2 = some b) (hk : branchTaken s.z i = k) : exec i s = .next (resolved s b k) := by
  subst hk
  cases i
  case jump => simp only [exec, execJump, hst, bru2Stage, hb]; rfl
  case jal => simp only [exec, execJal, hst, bru2Stage, hb]; rfl
  case bz => simp only [exec, execBz, hst, bru2Stage, hb]; rfl
  case bnz => simp only [exec, execBnz, hst, bru2Stage, hb]; rfl
  all_goals simp [Instr.cls] at hc

/-! ### Commit (R244 to R246) -/

theorem exec_commit_jump {rs1 : Nat} {imm : Word} {s : State} {e : RobEntry} (hst : s.stage = .commit)
    (hn : s.count ≠ 0) (he : s.rob[s.head]? = some (some e)) :
    exec (.jump rs1 imm) s = .next (s.pop.robReset e.ea) := by
  simp only [exec, execJump, hst, commitJump, State.headEntry_of_getElem? hn he]

theorem exec_commit_jal {rd rs1 : Nat} {imm : Word} {s : State} {e : RobEntry} {pd : Nat} (hst : s.stage = .commit)
    (hn : s.count ≠ 0) (he : s.rob[s.head]? = some (some e)) (hpd : e.pd = some pd) :
    exec (.jal rd rs1 imm) s = .next ((s.retire e.result rd pd).pop.robReset e.ea) := by
  simp only [exec, execJal, hst, commitJal, State.headEntry_of_getElem? hn he, State.retireHead, hpd]

/-- BZ and BNZ commit by the recorded outcome, not by the flag (R244, D27). -/
theorem commitBranch_of_head {s : State} {e : RobEntry} (hn : s.count ≠ 0) (he : s.rob[s.head]? = some (some e)) :
    commitBranch s = .next (if e.taken then s.pop.robReset e.ea else s.pop) := by
  simp only [commitBranch, State.headEntry_of_getElem? hn he]

theorem exec_commit_bz {imm : Word} {s : State} {e : RobEntry} (hst : s.stage = .commit)
    (hn : s.count ≠ 0) (he : s.rob[s.head]? = some (some e)) :
    exec (.bz imm) s = .next (if e.taken then s.pop.robReset e.ea else s.pop) := by
  simp only [exec, execBz, hst, commitBranch_of_head hn he]

theorem exec_commit_bnz {imm : Word} {s : State} {e : RobEntry} (hst : s.stage = .commit)
    (hn : s.count ≠ 0) (he : s.rob[s.head]? = some (some e)) :
    exec (.bnz imm) s = .next (if e.taken then s.pop.robReset e.ea else s.pop) := by
  simp only [exec, execBnz, hst, commitBranch_of_head hn he]

/-! ### The four instructions (R204 to R207) -/

/-- Settles O31: the target is relative to the source slot, and the outcome is always taken. -/
theorem jumpMeaning : Obligations.JumpMeaning := by
  unfold Obligations.JumpMeaning
  intro rs1 imm
  refine ⟨?decoded, ?bru1, ?bru2, ?commit⟩
  case decoded => exact fun n w rd rs2 rs3 hr hi => Laws.decodeJI_ok n w 14 rs1 rd rs2 rs3 imm _ (by simp [hr, hi])
  case bru1 => exact fun s u e p1 r1 hst hu he hp1 hr1 => exec_bru1 rfl hst hu he (State.operand_of_slot hp1 hr1)
  case bru2 => exact fun s b hst hb => exec_bru2 (k := true) rfl hst hb rfl
  case commit => exact fun s e => exec_commit_jump

/-- Settles O32: as JUMP, with the address behind the instruction as the link, which is retired before the ROB reset. -/
theorem jalMeaning : Obligations.JalMeaning := by
  unfold Obligations.JalMeaning
  intro rd rs1 imm
  refine ⟨?decoded, ?bru1, ?bru2, ?commit⟩
  case decoded => exact fun n w rs2 rs3 => decodeRRI_of_lt 15
  case bru1 => exact fun s u e p1 r1 hst hu he hp1 hr1 => exec_bru1 rfl hst hu he (State.operand_of_slot hp1 hr1)
  case bru2 => exact fun s b hst hb => exec_bru2 (k := true) rfl hst hb rfl
  case commit => exact fun s e pd => exec_commit_jal

/-- Settles O33: the target is relative to the instruction's address, and the outcome is the flag. -/
theorem bzMeaning : Obligations.BzMeaning := by
  unfold Obligations.BzMeaning
  intro imm
  refine ⟨?decoded, ?bru1, ?taken, ?notTaken, ?commit⟩
  case decoded => exact fun n w rd rs1 rs2 rs3 hi => Laws.decodeI_ok w 16 rd rs1 rs2 rs3 imm _ (by simp [hi])
  case bru1 => exact fun s u e hst hu he => exec_bru1 rfl hst hu he rfl
  case taken => exact fun s b hst hb hz => exec_bru2 (i := .bz imm) (k := true) rfl hst hb hz
  case notTaken => exact fun s b hst hb hz => exec_bru2 (i := .bz imm) (k := false) rfl hst hb hz
  case commit => exact fun s e => exec_commit_bz

/-- Settles O34: the target is relative to the instruction's address, and the outcome is the complement of the flag. -/
theorem bnzMeaning : Obligations.BnzMeaning := by
  unfold Obligations.BnzMeaning
  intro imm
  refine ⟨?decoded, ?bru1, ?taken, ?notTaken, ?commit⟩
  case decoded => exact fun n w rd rs1 rs2 rs3 hi => Laws.decodeI_ok w 17 rd rs1 rs2 rs3 imm _ (by simp [hi])
  case bru1 => exact fun s u e hst hu he => exec_bru1 rfl hst hu he rfl
  case taken => exact fun s b hst hb hz => exec_bru2 (i := .bnz imm) (k := true) rfl hst hb (congrArg not hz)
  case notTaken => exact fun s b hst hb hz => exec_bru2 (i := .bnz imm) (k := false) rfl hst hb (congrArg not hz)
  case commit => exact fun s e => exec_commit_bnz

end Sys2Proof.Machine

/-! PROOF. The squash (O58): what a taken control-flow instruction leaves at BRU2 stays through the rest of the cycle, since the
queue and L.D are empty and fetch is redirected. -/

namespace Sys2Proof.Machine

/-! ### The state after a squash (R202, R203) -/

/-- The queue and the front end are empty, fetch goes on at `a` in the next cycle, and no control-flow instruction is pending. -/
structure State.Squashed (a : Word) (s : State) : Prop where
  iq : ∀ e ∈ s.iq, e = none
  lf : s.lf = none
  ld : s.ld = none
  pc : s.pc = a
  branchPending : s.branchPending = false
  redirect : s.redirect = true

theorem resolved_squashed (s : State) (b : BruOp) : (resolved s b true).Squashed b.target where
  iq := by simp [resolved]
  lf := rfl
  ld := rfl
  pc := rfl
  branchPending := rfl
  redirect := rfl

theorem squashed_computeKeeps (a : Word) : ComputeKeeps (State.Squashed a) where
  target _ _ _ _ h _ _ _ _ := { h with }
  mulWrite _ _ h _ := { h with }
  mulPass _ h := { h with }
  mulStart _ _ _ h _ _ _ := { h with }
  int _ _ _ _ h _ _ _ := { h with }

/-- Issue finds no micro-op, dispatch no instruction, and a redirected fetch waits for the next cycle. -/
theorem squashed_frontKeeps (a : Word) : FrontKeeps (State.Squashed a) where
  fault _ _ h := { h with }
  issue _ h := (issueStage_of_empty h.iq).symm ▸ h
  dispatch _ _ _ h hd _ _ := by simp [h.ld] at hd
  fetch _ h := (fetchStage_of_closed (.inl h.redirect)).symm ▸ h

/-! ### The stages around BRU2 -/

theorem andThen_assoc (o : Result) (f g : State → Result) :
    andThen (andThen o f) g = andThen o (fun s => andThen (f s) g) := by
  cases o with
  | next s => cases hf : s.fault <;> simp [andThen, hf]
  | fault => rfl
  | refused => rfl

/-- Where commit and the memory stages leave a state without a fault, the execute stages run on it. -/
theorem beforeIssue_eq_executeStages {s s1 : State}
    (h : andThen (commitStage (startCycle s)) memoryStages = .next s1) (hf : s1.fault = none) :
    beforeIssue s = executeStages s1 := by
  have hb : beforeIssue s = andThen (andThen (commitStage (startCycle s)) memoryStages) executeStages :=
    (andThen_assoc _ _ _).symm
  rw [hb, h, andThen, hf]
  rfl

/-- Commit and the memory stages end at the stage of a cycle boundary. -/
theorem commitAndMemory_stage {s s1 : State} (hst : s.stage = .dispatch)
    (h : andThen (commitStage (startCycle s)) memoryStages = .next s1) : s1.stage = .dispatch := by
  have hc : CommitKeeps (fun _ => True) := ⟨fun _ _ => trivial, fun _ _ _ _ _ _ _ => trivial⟩
  exact andThen_keeps (P := fun a => a.stage = .dispatch) (fun a ha => (hc.commitStage s a trivial hst ha).2)
    (fun a u ha hu => ((memory_unitsKeep fun _ _ => True).memoryStages a u trivial ha hu).2) h

theorem resolved_with_stage (s : State) (b : BruOp) (taken : Bool) (st : Stage) :
    resolved { s with stage := st } b taken = { resolved s b taken with stage := st } := by
  cases taken <;> rfl

theorem resolveStage_of_branch {s : State} {b : BruOp} {k : Bool} (hst : s.stage = .dispatch) (hb : s.lBru2 = some b)
    (hc : b.entry.insn.cls = some .branch) (hk : branchTaken s.z b.entry.insn = k) :
    resolveStage s = .next (resolved s b k) := by
  rw [resolveStage, hb]
  have he := exec_bru2 (s := { s with stage := .bru2 }) hc rfl hb hk
  exact runStage_of_exec (he.trans (congrArg _ (resolved_with_stage s b _ _))) ((resolved_stage _ _ _).trans hst)

/-- Settles O58: BRU2 leaves the state squashed, and every later stage of the cycle keeps it so. -/
theorem squashIsAtomic : Obligations.SquashIsAtomic := by
  unfold Obligations.SquashIsAtomic
  intro s s1 t b hst h h1 hf hb hi
  have hk : b.entry.insn.cls = some .branch ∧ branchTaken s1.z b.entry.insn = true := by
    rcases hi with ⟨r, i, hi⟩ | ⟨d, r, i, hi⟩ | ⟨⟨i, hi⟩, hz⟩ | ⟨⟨i, hi⟩, hz⟩
    · simp [hi, Instr.cls, branchTaken]
    · simp [hi, Instr.cls, branchTaken]
    · simp [hi, Instr.cls, branchTaken, hz]
    · simp [hi, Instr.cls, branchTaken, hz]
  obtain ⟨hc, htaken⟩ := hk
  have hst1 := commitAndMemory_stage hst h1
  have hres : ∀ a, resolveStage s1 = .next a → a.Squashed b.target ∧ a.stage = .dispatch := by
    intro a ha
    rw [resolveStage_of_branch hst1 hb hc htaken] at ha
    cases ha
    exact ⟨resolved_squashed s1 b, (resolved_stage s1 b true).trans hst1⟩
  have hbefore : ∀ a, beforeIssue s = .next a → a.Squashed b.target ∧ a.stage = .dispatch := by
    rw [beforeIssue_eq_executeStages h1 hf]
    exact fun a ha => (squashed_computeKeeps b.target).afterResolve a hres ha
  have ht : t.Squashed b.target := step_of_halves hbefore (squashed_frontKeeps b.target) (fun _ h => h)
    (fun a h => by rw [endCycle_eq]; exact { h with }) h
  exact ⟨ht.iq, ht.lf, ht.ld, ht.pc, ht.branchPending⟩

end Sys2Proof.Machine

/-! PROOF. The stranded head (O59): an entry that no micro-op belongs to is written by no stage, commit waits for it, and
dispatch allocates at the tail, which is not the head while an entry is in flight. -/

namespace Sys2Proof.Machine

/-! ### No micro-op of an entry -/

namespace State.NoMicroOpFor

variable {k : Nat} {s : State} (h : s.NoMicroOpFor k)
include h

/-- The memory stages rewrite the latches behind MEM1 only. -/
theorem of_memory {t : State} (ht : t = { s with memPass := t.memPass, lAcc := t.lAcc })
    (hm : ∀ m, some m ∈ t.memPass ∨ t.lAcc = some m → m.entry.rob ≠ k) : t.NoMicroOpFor k := by
  have hk : State.NoMicroOpFor { s with memPass := t.memPass, lAcc := t.lAcc } k :=
    { h with pass := fun m hp => hm m (.inl hp), acc := fun m ha => hm m (.inr ha) }
  rwa [← ht] at hk

theorem memory {m : MemOp} (hm : some m ∈ s.memPass ∨ s.lAcc = some m) : m.entry.rob ≠ k :=
  hm.elim (h.pass m) (h.acc m)

theorem passStage : (passStage s).NoMicroOpFor k :=
  h.of_memory (passStage_eq s) fun _ hm => h.memory (mem_passStage hm)

theorem intoMem2 {m : MemOp} (hm : m.entry.rob ≠ k) : (s.intoMem2 m).NoMicroOpFor k := by
  refine h.of_memory (s.intoMem2_eq m) fun x hx => ?_
  rcases State.mem_intoMem2 hx with rfl | hx
  · exact hm
  · exact h.memory hx

theorem resolved (b : BruOp) (taken : Bool) : (resolved s b taken).NoMicroOpFor k := by
  cases taken with
  | false => exact { h with bru2 := forall_of_none }
  | true => exact { h with bru2 := forall_of_none, iq := fun u hu => (not_mem_map_none _ u hu).elim }

/-- A slot of the queue is emptied, or takes a micro-op of another entry. -/
theorem setSlot {o : Option IqEntry} (ho : ∀ u, o = some u → u.rob ≠ k) (j : Nat) :
    State.NoMicroOpFor { s with iq := s.iq.set j o } k :=
  { h with iq := fun u hu => (mem_of_mem_set hu).elim (h.iq u) (ho u) }

theorem place (c : FuClass) {u : IqEntry} (hu : u.rob ≠ k) : (s.place c u).NoMicroOpFor k := by
  cases c with
  | int => exact { h with int := forall_of_some hu }
  | mul => exact { h with mul1 := forall_of_some hu }
  | branch => exact { h with bru1 := forall_of_some hu }
  | mem => exact { h with mem1 := forall_of_some hu }

theorem enqueue (i : Instr) (ps : List Nat) {u : IqEntry} (hu : u.rob ≠ k) : (s.enqueue i ps u).NoMicroOpFor k := by
  unfold State.enqueue
  split
  · exact { h with mem1 := forall_of_some hu }
  · split
    · split
      · exact h.setSlot (forall_of_some hu) _
      · exact h
    · exact h

/-- A dispatched micro-op belongs to the entry at the tail (R113, R114). -/
theorem allocate (ht : s.tail ≠ k) (pc : Word) (i : Instr) (ps : List Nat) : (s.allocate pc i ps).NoMicroOpFor k := by
  have hq := h.enqueue i ps (u := s.microOp i ps) ht
  rw [s.allocate_eq]
  exact { h with iq := hq.iq, mem1 := hq.mem1 }

end State.NoMicroOpFor

/-! ### The head entry -/

theorem State.headEntry_robUpdate_of_ne {s : State} {i : Nat} (h : i ≠ s.head) (f : RobEntry → RobEntry) :
    (s.robUpdate i f).headEntry = s.headEntry := by
  simp [State.headEntry, State.robAt_update, h]

/-- The tail of a window that is neither empty nor full is not its head. -/
theorem State.RobOk.tail_ne_head {s : State} (h : s.RobOk) (h0 : s.count ≠ 0) (hn : s.count < s.rob.length) :
    s.tail ≠ s.head := by
  intro he
  have hi : s.robIndex s.count = s.robIndex 0 := by
    simp [State.robIndex, ← h.tail, he, Nat.mod_eq_of_lt h.head]
  exact h0 (State.robIndex_inj h hn (Nat.zero_lt_of_lt hn) hi)

theorem State.headEntry_allocate {s : State} (ht : s.tail ≠ s.head) (h0 : s.count ≠ 0) (pc : Word) (i : Instr)
    (ps : List Nat) : (s.allocate pc i ps).headEntry = s.headEntry := by
  rw [s.allocate_eq]
  simp [State.headEntry, State.robAt, h0, List.getElem?_set_ne ht]

/-! ### The stranded head (R202, R302) -/

theorem State.Stranded.robUpdate {s : State} (h : s.Stranded) {i : Nat} (hi : i ≠ s.head) (f : RobEntry → RobEntry) :
    (s.robUpdate i f).Stranded where
  head := (State.headEntry_robUpdate_of_ne hi f).symm ▸ h.head
  lost := { h.lost with }

theorem State.Stranded.not_valid {s : State} (h : s.Stranded) {e : RobEntry} (he : s.headEntry = some e) :
    e.resultValid = false := by
  obtain ⟨e', he', hv⟩ := h.head
  rw [he] at he'
  cases he'
  exact hv

/-- Commit waits for the head entry (R240). -/
theorem stranded_commitKeeps : CommitKeeps State.Stranded where
  start _ h := { h with lost := { h.lost with } }
  commit _ _ _ h he hv _ := by simp [h.not_valid he] at hv

/-- A unit writes the entry of the micro-op that it holds, which is not the head entry. -/
theorem stranded_unitsKeep : UnitsKeep State.Stranded where
  target _ u _ _ h hu _ _ _ :=
    { h with lost := { h.lost with bru1 := forall_of_none, bru2 := forall_of_some (h.lost.bru1 u hu) } }
  mulWrite _ m h hm := { h.robUpdate (h.lost.mul3 m hm) _ with lost := { h.lost with mul3 := forall_of_none } }
  mulPass _ h := { h with lost := { h.lost with mul2 := forall_of_none, mul3 := h.lost.mul2 } }
  mulStart _ u _ h hu _ _ :=
    { h with lost := { h.lost with mul1 := forall_of_none, mul2 := forall_of_some (h.lost.mul1 u hu) } }
  int _ u _ _ h hu _ _ := { h.robUpdate (h.lost.int u hu) _ with lost := { h.lost with int := forall_of_none } }
  fault _ _ h := { h with lost := { h.lost with } }
  load _ m _ h hm _ := { h.robUpdate (h.lost.acc m hm) _ with lost := { h.lost with acc := forall_of_none } }
  store _ m h hm := { h.robUpdate (h.lost.acc m hm) _ with lost := { h.lost with acc := forall_of_none } }
  pass s h := by
    have hl := h.lost.passStage
    rw [passStage_eq] at hl ⊢
    exact { h with lost := hl }
  agen s u ea data h hu _ _ _ := by
    have hn : State.NoMicroOpFor { s with lMem1 := none } s.head := { h.lost with mem1 := forall_of_none }
    have hl := hn.intoMem2 (m := ⟨u, ea, data⟩) (h.lost.mem1 u hu)
    rw [State.intoMem2_eq] at hl ⊢
    exact { h with lost := hl }
  resolve _ b taken h hb := by
    have hr := h.robUpdate (h.lost.bru2 b hb) (fun e => e.resolve b taken)
    have hl := h.lost.resolved b taken
    cases taken <;> exact { hr with lost := hl }

theorem State.Stranded.issue {s : State} (h : s.Stranded) {c : FuClass} {k : Nat} {u : IqEntry}
    (hu : s.iq[k]? = some (some u)) : ({ s with iq := s.iq.set k none }.place c u).Stranded := by
  have hne : u.rob ≠ s.head := h.lost.iq u (List.mem_of_getElem? hu)
  have hl := (h.lost.setSlot (o := none) forall_of_none k).place c hne
  have hr := h.robUpdate hne (fun e => { e with memReady := true })
  cases c with
  | mem => exact { hr with lost := hl }
  | _ => exact { h with lost := hl }

theorem State.Stranded.allocate {s : State} (h : s.Stranded) (hr : s.RobOk) (pc : Word) {i : Instr} {ps : List Nat}
    (hs : s.stalls i ps = false) : (s.allocate pc i ps).Stranded := by
  obtain ⟨e, he, hv⟩ := h.head
  have h0 : s.count ≠ 0 := (State.headEntry_some he).1
  have ht : s.tail ≠ s.head := hr.tail_ne_head h0 (State.stalls_false hs).1
  refine ⟨⟨e, (State.headEntry_allocate ht h0 pc i ps).trans he, hv⟩, ?_⟩
  have hh : (s.allocate pc i ps).head = s.head := by rw [s.allocate_eq]
  rw [hh]
  exact h.lost.allocate ht pc i ps

/-- Dispatch needs the window: it allocates at the tail. -/
theorem stranded_frontKeeps : FrontKeeps (fun s => s.RobOk ∧ s.Stranded) where
  fault s f h := ⟨robOk_preserved.toFrontKeeps.fault s f h.1, stranded_unitsKeep.fault s f h.2⟩
  issue s h := ⟨robOk_preserved.issue s h.1, issueStage_keeps (fun _ _ _ _ h hu _ => h.issue hu) h.2⟩
  dispatch s d ps h hd hps hs := ⟨robOk_preserved.dispatch s d ps h.1 hd hps hs, h.2.allocate h.1 d.pc hs⟩
  fetch s h := by
    refine ⟨robOk_preserved.fetch s h.1, ?_⟩
    rw [fetchStage_eq]
    exact { h.2 with lost := { h.2.lost with } }

/-- Settles O59: every stage keeps the head stranded, and a step with an unfinished head writes no architectural state (O44). -/
theorem strandedHeadBlocksCommitForEver : Obligations.StrandedHeadBlocksCommitForEver := by
  unfold Obligations.StrandedHeadBlocksCommitForEver
  intro s t hst hr hs h
  have hb : ∀ a, beforeIssue s = .next a → (a.RobOk ∧ a.Stranded) ∧ a.stage = .dispatch := by
    intro a ha
    obtain ⟨hra, _⟩ := beforeIssue_keeps robOk_preserved.toCommitKeeps robOk_preserved.toUnitsKeep s a hr hst ha
    obtain ⟨hsa, hsta⟩ := beforeIssue_keeps stranded_commitKeeps stranded_unitsKeep s a hs hst ha
    exact ⟨⟨hra, hsa⟩, hsta⟩
  have ht : t.RobOk ∧ t.Stranded := step_of_halves hb stranded_frontKeeps (fun _ h => h)
    (fun a h => ⟨robOk_preserved.finish a h.1, by rw [endCycle_eq]; exact { h.2 with lost := { h.2.lost with } }⟩) h
  obtain ⟨e, he, hv⟩ := hs.head
  have hhead : s.rob[s.head]? = some (some e) := Option.join_eq_some_iff.1 (State.headEntry_some he).2
  obtain ⟨hrrat, _, _, hdmem, hcursor, hhalted⟩ := architecturalStateOnlyByCommit s t hst h (.inr ⟨e, hhead, hv⟩)
  exact ⟨ht.1, ht.2, hcursor, hrrat, hdmem, hhalted⟩

end Sys2Proof.Machine

/-! PROOF. The memory instructions (O35 to O38): MEM1, the access stage and the commit of a store once for the class, and the
pass-through stages between them. -/

namespace Sys2Proof.Machine

/-! ### Address generation (R220) -/

/-- The effective address of a memory instruction on words of `w` bits, from its three source values (R224 to R227); no other
class has one. -/
def memAddress (w : Nat) : Instr → Word → Word → Word → Word
  | .load _ _ imm, a, _, _ => wordAdd w a imm
  | .store _ _ imm, _, b, _ => wordAdd w b imm
  | .ldr _ _ _, a, b, _ => wordAdd w a b
  | .str _ _ _, _, b, c => wordAdd w b c
  | _, _, _, _ => 0

/-- The word that a memory instruction carries to the access stage: a store's first source value, and 0 for a load (log 14). -/
def memData : Instr → Word → Word
  | .store _ _ _, a => a
  | .str _ _ _, a => a
  | _, _ => 0

/-- At MEM1 exec is the stage with the instruction's own address and data. -/
theorem exec_mem1_eq_mem1Stage {i : Instr} {s : State} (hc : i.cls = some .mem) (hst : s.stage = .mem1) :
    exec i s = mem1Stage (memAddress s.xlen i) (fun a _ _ => memData i a) s := by
  cases i
  case load => simp only [exec, execLoad, hst]; rfl
  case store => simp only [exec, execStore, hst]; rfl
  case ldr => simp only [exec, execLdr, hst]; rfl
  case str => simp only [exec, execStr, hst]; rfl
  all_goals simp [Instr.cls] at hc

/-- MEM1 with micro-op `u` in L.MEM1, whose sources have the values `a`, `b` and `c`: the next memory latch is the access latch
where L_MEM = 2, and the first pass-through latch otherwise. -/
theorem exec_mem1 {i : Instr} {s : State} {u : IqEntry} {a b c : Word} (hc : i.cls = some .mem) (hst : s.stage = .mem1)
    (hu : s.lMem1 = some u) (h1 : s.operand u.ps1 = a) (h2 : s.operand u.ps2 = b) (h3 : s.operand u.ps3 = c) :
    (s.memPass = [] → exec i s = .next { s with
      lAcc := some { entry := u, ea := memAddress s.xlen i a b c, data := memData i a }, lMem1 := none }) ∧
    (∀ m ms, s.memPass = m :: ms → exec i s = .next { s with
      memPass := some { entry := u, ea := memAddress s.xlen i a b c, data := memData i a } :: ms, lMem1 := none }) := by
  subst h1 h2 h3
  rw [exec_mem1_eq_mem1Stage hc hst]
  constructor
  · intro hp
    simp only [mem1Stage, hu, State.intoMem2, hp]
  · intro m ms hp
    simp only [mem1Stage, hu, State.intoMem2, hp]

/-! ### The pass-through stages (R221) -/

theorem passStage_of_nil {s : State} (h : s.memPass = []) : passStage s = s := by
  simp only [passStage, h, List.getLast?_nil]

theorem passStage_of_append {s : State} {ms : List (Option MemOp)} {m : Option MemOp} (h : s.memPass = ms ++ [m]) :
    passStage s = { s with lAcc := m, memPass := none :: ms } := by
  simp only [passStage, h, List.getLast?_concat, List.dropLast_concat]

/-! ### The access stage (R222) -/

theorem State.inRange_iff {s : State} {ea : Word} :
    s.inRange ea = true ↔ 0 ≤ signed s.xlen ea ∧ signed s.xlen ea < s.dmemSize := by
  simp only [State.inRange, Bool.and_eq_true, decide_eq_true_eq]

theorem State.inRange_eq_false_iff {s : State} {ea : Word} :
    s.inRange ea = false ↔ ¬ (0 ≤ signed s.xlen ea ∧ signed s.xlen ea < s.dmemSize) := by
  rw [← State.inRange_iff, Bool.not_eq_true]

theorem exec_access_eq_accessLoad {i : Instr} {s : State} (hc : i.cls = some .mem) (hd : i.producer = true)
    (hst : s.stage = .access) : exec i s = accessLoad s := by
  cases i <;> cases hc
  case load => simp only [exec, execLoad, hst]
  case ldr => simp only [exec, execLdr, hst]
  case store => cases hd
  case str => cases hd

theorem exec_access_eq_accessStore {i : Instr} {s : State} (hc : i.cls = some .mem) (hd : i.producer = false)
    (hst : s.stage = .access) : exec i s = accessStore s := by
  cases i <;> cases hc
  case load => cases hd
  case ldr => cases hd
  case store => simp only [exec, execStore, hst]
  case str => simp only [exec, execStr, hst]

/-- A load with micro-op `m` in the access latch: the entry is finished with the cell read, or the range fault is recorded. -/
theorem exec_access_load {i : Instr} {s : State} {m : MemOp} (hc : i.cls = some .mem) (hd : i.producer = true)
    (hst : s.stage = .access) (hm : s.lAcc = some m) :
    (0 ≤ signed s.xlen m.ea ∧ signed s.xlen m.ea < s.dmemSize → exec i s = .next { s with
      rob := s.rob.modify m.entry.rob (Option.map (fun e => e.finish (s.memRead m.ea)))
      lAcc := none }) ∧
    (¬ (0 ≤ signed s.xlen m.ea ∧ signed s.xlen m.ea < s.dmemSize) →
      exec i s = .next { s with fault := some (.dmemRange m.ea) }) := by
  rw [exec_access_eq_accessLoad hc hd hst]
  exact ⟨fun hr => accessLoad_in s m hm (State.inRange_iff.2 hr),
    fun hr => accessLoad_out s m hm (State.inRange_eq_false_iff.2 hr)⟩

/-- A store with micro-op `m` in the access latch: its data and address are staged in the entry. -/
theorem exec_access_store {i : Instr} {s : State} {m : MemOp} (hc : i.cls = some .mem) (hd : i.producer = false)
    (hst : s.stage = .access) (hm : s.lAcc = some m) :
    exec i s = .next { s with rob := s.rob.modify m.entry.rob (Option.map (fun e => e.stageStore m)), lAcc := none } := by
  simp only [exec_access_eq_accessStore hc hd hst, accessStore, hm, State.robUpdate]

/-! ### The commit of a store (R241) -/

theorem exec_commit_eq_commitStore {i : Instr} {s : State} (hc : i.cls = some .mem) (hd : i.producer = false)
    (hst : s.stage = .commit) : exec i s = commitStore s := by
  cases i <;> cases hc
  case load => cases hd
  case ldr => cases hd
  case store => simp only [exec, execStore, hst]
  case str => simp only [exec, execStr, hst]

/-- A store with head entry `e`: the cell is written, which no read of another cell sees, and the entry popped; or the range fault
is recorded. -/
theorem exec_commit_store {i : Instr} {s : State} {e : RobEntry} (hc : i.cls = some .mem) (hd : i.producer = false)
    (hst : s.stage = .commit) (hn : s.count ≠ 0) (he : s.rob[s.head]? = some (some e)) :
    (0 ≤ signed s.xlen e.ea ∧ signed s.xlen e.ea < s.dmemSize →
      exec i s = .next { s with dmem := Mem.write s.dmem (signed s.xlen e.ea).toNat e.result }.pop ∧
      (Mem.wf s.dmem → ∀ a, Mem.read (Mem.write s.dmem (signed s.xlen e.ea).toNat e.result) a =
        if a = (signed s.xlen e.ea).toNat then e.result else Mem.read s.dmem a)) ∧
    (¬ (0 ≤ signed s.xlen e.ea ∧ signed s.xlen e.ea < s.dmemSize) →
      exec i s = .next { s with fault := some (.dmemRange e.ea) }) := by
  rw [exec_commit_eq_commitStore hc hd hst, commitStore, State.headEntry_of_getElem? hn he]
  constructor
  · intro hr
    exact ⟨if_pos (State.inRange_iff.2 hr), Mem.read_write s.dmem _ e.result⟩
  · intro hr
    exact if_neg (mt State.inRange_iff.1 hr)

/-! ### The four instructions (R224 to R227) -/

/-- Settles O35: `memAddress` of LOAD is the source slot plus the immediate, and it commits as every producer that is no JAL. -/
theorem loadMeaning : Obligations.LoadMeaning := by
  unfold Obligations.LoadMeaning
  intro rd rs1 imm
  refine ⟨?decoded, ?mem1, ?pass, ?access, ?commit⟩
  case decoded => exact fun n w rs2 rs3 => decodeRRI_of_lt 10
  case mem1 => exact fun s u p1 r1 hst hu hp1 hr1 => exec_mem1 rfl hst hu (State.operand_of_slot hp1 hr1) rfl rfl
  case pass => exact fun s => ⟨passStage_of_nil, fun ms m => passStage_of_append⟩
  case access => exact fun s m => exec_access_load rfl rfl
  case commit => exact fun s e pd => exec_commit_producer rfl rfl

/-- Settles O36: `memAddress` of STORE is the second source slot plus the immediate, `memData` the first slot, and it reaches
memory at commit alone. -/
theorem storeMeaning : Obligations.StoreMeaning := by
  unfold Obligations.StoreMeaning
  intro rs1 rs2 imm
  refine ⟨?decoded, ?mem1, ?access, ?commit⟩
  case decoded =>
    exact fun n w rd rs3 h1 h2 hi => Laws.decodeSRI_ok n w 11 rs1 rs2 rd rs3 imm _ (by simp [h1, h2, hi])
  case mem1 =>
    exact fun s u p1 p2 r1 r2 hst hu hp1 hr1 hp2 hr2 =>
      exec_mem1 rfl hst hu (State.operand_of_slot hp1 hr1) (State.operand_of_slot hp2 hr2) rfl
  case access => exact fun s m => exec_access_store rfl rfl
  case commit => exact fun s e => exec_commit_store rfl rfl

/-- Settles O37: as LOAD, with `memAddress` the sum of the two source slots. -/
theorem ldrMeaning : Obligations.LdrMeaning := by
  unfold Obligations.LdrMeaning
  intro rd rs1 rs2
  refine ⟨?decoded, ?mem1, ?access, ?commit⟩
  case decoded => exact fun n w rs3 imm => decodeRRR_of_lt 12
  case mem1 =>
    exact fun s u p1 p2 r1 r2 hst hu hp1 hr1 hp2 hr2 =>
      exec_mem1 rfl hst hu (State.operand_of_slot hp1 hr1) (State.operand_of_slot hp2 hr2) rfl
  case access => exact fun s m => exec_access_load rfl rfl
  case commit => exact fun s e pd => exec_commit_producer rfl rfl

/-- Settles O38: as STORE, with `memAddress` the sum of the second and the third source slot. -/
theorem strMeaning : Obligations.StrMeaning := by
  unfold Obligations.StrMeaning
  intro rs1 rs2 rs3
  refine ⟨?decoded, ?mem1, ?access, ?commit⟩
  case decoded =>
    exact fun n w rd imm h1 h2 h3 => Laws.decodeSRR_ok n 13 rs1 rs2 rs3 rd imm _ (by simp [h1, h2, h3])
  case mem1 =>
    exact fun s u p1 p2 p3 r1 r2 r3 hst hu hp1 hr1 hp2 hr2 hp3 hr3 => exec_mem1 rfl hst hu
      (State.operand_of_slot hp1 hr1) (State.operand_of_slot hp2 hr2) (State.operand_of_slot hp3 hr3)
  case access => exact fun s m => exec_access_store rfl rfl
  case commit => exact fun s e => exec_commit_store rfl rfl

end Sys2Proof.Machine

/-! PROOF. Commit (O39 to O41): what freeing a slot, installing a result and freeing the destinations in flight leave in each
physical slot, and the commits of NOP and HALT. -/

namespace Sys2Proof.Machine

/-! ### One physical slot after each update (R25, R243) -/

theorem getElem?_freeSlot_same {prf : List PhysReg} {p : Nat} {r : PhysReg} (hr : prf[p]? = some r) :
    (freeSlot prf (some p))[p]? = some { r with busy := false } := by
  simp [freeSlot, hr]

theorem getElem?_freeSlot_of_ne {o : Option Nat} {p : Nat} (h : o ≠ some p) (prf : List PhysReg) :
    (freeSlot prf o)[p]? = prf[p]? := by
  cases o with
  | none => rfl
  | some q => exact List.getElem?_modify_ne _ prf fun hq => h (congrArg some hq)

theorem getElem?_installResult_same {prf : List PhysReg} {p : Nat} {r : PhysReg} (hr : prf[p]? = some r) (v : Word) :
    (installResult prf p v)[p]? = some { r with value := v, hasResult := true } := by
  simp [installResult, hr]

theorem getElem?_installResult_of_ne {p q : Nat} (h : p ≠ q) (prf : List PhysReg) (v : Word) :
    (installResult prf q v)[p]? = prf[p]? :=
  List.getElem?_modify_ne _ prf h.symm

/-! ### The slot that Retire frees (R243, C7) -/

theorem State.superseded_ne_self (s : State) (rd pd : Nat) : s.superseded rd pd ≠ some pd := by
  unfold State.superseded
  split
  · nofun
  · assumption

theorem State.superseded_of_mapped {s : State} {rd old pd : Nat} (h : s.rrat[rd]? = some (some old)) (hne : old ≠ pd) :
    s.superseded rd pd = some old := by
  simp [State.superseded, State.retired, h, hne]

theorem State.superseded_ne_of_not_mapped {s : State} {rd p : Nat} (h : s.rrat[rd]? ≠ some (some p)) (pd : Nat) :
    s.superseded rd pd ≠ some p := by
  unfold State.superseded
  split
  · nofun
  · exact fun hp => h (Option.join_eq_some_iff.1 hp)

/-- Settles O40: slot `pd` is never the one freed, so it is the one `installResult` writes; the slot freed is `superseded`; every
other slot is neither. -/
theorem retireEffect : Obligations.RetireEffect := by
  unfold Obligations.RetireEffect
  intro s v rd pd
  simp only [State.retire_prf, State.retire_rrat]
  refine ⟨?installed, ?freed, ?untouched, ?mapped, ?unmapped, rfl⟩
  case installed =>
    intro r hr
    exact getElem?_installResult_same ((getElem?_freeSlot_of_ne (s.superseded_ne_self rd pd) s.prf).trans hr) v
  case freed =>
    intro old r hold hne hr
    rw [getElem?_installResult_of_ne hne, State.superseded_of_mapped hold hne]
    exact getElem?_freeSlot_same hr
  case untouched =>
    intro p hne hold
    rw [getElem?_installResult_of_ne hne, getElem?_freeSlot_of_ne (State.superseded_ne_of_not_mapped hold pd)]
  case mapped => exact List.getElem?_set_self
  case unmapped => exact fun q hq => List.getElem?_set_ne hq.symm

/-! ### The destinations that a ROB reset frees (R249) -/

theorem freeDests_cons (prf : List PhysReg) (e : RobEntry) (es : List RobEntry) :
    freeDests prf (e :: es) = freeDests (freeSlot prf e.pd) es := rfl

theorem getElem?_freeDests_of_not_dest {es : List RobEntry} {p : Nat} (h : ¬ ∃ e ∈ es, e.pd = some p) :
    ∀ prf : List PhysReg, (freeDests prf es)[p]? = prf[p]? := by
  induction es with
  | nil => exact fun _ => rfl
  | cons e es ih =>
    simp only [List.exists_mem_cons_iff, not_or] at h
    intro prf
    rw [freeDests_cons, ih h.2, getElem?_freeSlot_of_ne h.1]

/-- A slot that is the destination of several entries is freed by the first and stays free. -/
theorem getElem?_freeDests_of_dest {es : List RobEntry} {p : Nat} (h : ∃ e ∈ es, e.pd = some p) :
    ∀ {prf : List PhysReg} {r : PhysReg}, prf[p]? = some r → (freeDests prf es)[p]? = some { r with busy := false } := by
  induction es with
  | nil => simp at h
  | cons e es ih =>
    intro prf r hr
    rw [freeDests_cons]
    by_cases he : e.pd = some p
    · have hfreed : (freeSlot prf e.pd)[p]? = some { r with busy := false } := he ▸ getElem?_freeSlot_same hr
      by_cases hes : ∃ e ∈ es, e.pd = some p
      · exact (ih hes hfreed :)
      · rw [getElem?_freeDests_of_not_dest hes, hfreed]
    · exact ih (((List.exists_mem_cons_iff ..).1 h).resolve_left he) ((getElem?_freeSlot_of_ne he prf).trans hr)

/-- Settles O41: the named updates are the definitions of Pop and of ROBReset, whose physical registers are `freeDests` of the
entries in flight. -/
theorem popAndRobResetEffect : Obligations.PopAndRobResetEffect := by
  unfold Obligations.PopAndRobResetEffect
  refine ⟨fun s => rfl, fun s target => ⟨?freed, ?kept, rfl⟩⟩
  case freed => exact fun p r hr hd => getElem?_freeDests_of_dest hd hr
  case kept => exact fun p hd => getElem?_freeDests_of_not_dest hd s.prf

/-! ### NOP and HALT (R247, R248) -/

theorem exec_commit_nop {s : State} {e : RobEntry} (hst : s.stage = .commit) (hn : s.count ≠ 0)
    (he : s.rob[s.head]? = some (some e)) : exec .nop s = .next s.pop := by
  simp only [exec, execNop, hst, commitNop, State.headEntry_of_getElem? hn he]

theorem exec_commit_halt {s : State} {e : RobEntry} (hst : s.stage = .commit) (hn : s.count ≠ 0)
    (he : s.rob[s.head]? = some (some e)) : exec .halt s = .next { s.pop with halted := true, haltRetired := true } := by
  simp only [exec, execHalt, hst, commitHalt, State.headEntry_of_getElem? hn he]

/-- Settles O39: opcodes 18 and 19 name no field, and at commit both instructions pop the head entry. -/
theorem nopAndHaltCommit : Obligations.NopAndHaltCommit := by
  unfold Obligations.NopAndHaltCommit
  refine ⟨?decoded, ?nop, ?halt⟩
  case decoded => exact fun n w rd rs1 rs2 rs3 imm => ⟨rfl, rfl⟩
  case nop => exact fun s e => exec_commit_nop
  case halt => exact fun s e => exec_commit_halt

end Sys2Proof.Machine

/-! PROOF. The key word (O1, O2): the fields packed into it are the fields unpacked from it, a field that the format does not use
is packed as 0 and not read, so a well-formed instruction is decoded from its own key word and from its 64-bit image. -/

namespace Sys2Proof

/-! ### Packing and unpacking (R91) -/

section

variable {op rd rs1 rs2 rs3 : Nat} (hop : op < 32) (hrd : rd < 16) (h1 : rs1 < 16) (h2 : rs2 < 16) (h3 : rs3 < 16)
include hop hrd h1 h2 h3

/-- A key word has 21 bits. -/
theorem packKey_lt : packKey op rd rs1 rs2 rs3 < 2097152 := by
  unfold packKey
  omega

theorem unpackKey_packKey (imm : Word) : unpackKey (packKey op rd rs1 rs2 rs3) imm =
    ⟨BitVec.ofNat 5 op, some rd, some rs1, some rs2, some rs3, imm⟩ := by
  have e0 : packKey op rd rs1 rs2 rs3 % 32 = op := packKey_mod hop rd rs1 rs2 rs3
  have e1 : packKey op rd rs1 rs2 rs3 / 32 % 16 = rd := by unfold packKey; omega
  have e2 : packKey op rd rs1 rs2 rs3 / 512 % 16 = rs1 := by unfold packKey; omega
  have e3 : packKey op rd rs1 rs2 rs3 / 8192 % 16 = rs2 := by unfold packKey; omega
  have e4 : packKey op rd rs1 rs2 rs3 / 131072 % 16 = rs3 := by unfold packKey; omega
  simp only [unpackKey, e0, e1, e2, e3, e4]

end

/-! ### The packed form of a record -/

/-- The record with 0 in the place of every absent register field, as the key word holds it (R91). -/
def Record.packed (r : Record) : Record :=
  { r with rd := some (r.rd.getD 0), rs1 := some (r.rs1.getD 0), rs2 := some (r.rs2.getD 0), rs3 := some (r.rs3.getD 0) }

/-- The key word of an instruction packs the fields of its record. -/
theorem encodeKey_eq_packKey (i : Instr) : encodeKey i =
    packKey (encodeRecord i).opcode.toNat ((encodeRecord i).rd.getD 0) ((encodeRecord i).rs1.getD 0)
      ((encodeRecord i).rs2.getD 0) ((encodeRecord i).rs3.getD 0) := by
  cases i <;> rfl

theorem encodeImm_eq_imm (i : Instr) : encodeImm i = (encodeRecord i).imm := by
  cases i <;> rfl

section

variable {n w : Nat} {i : Instr} (h : i.wf n w = true)
include h

/-- A format does not read the zeros that stand for absent fields, one case per format (R83). -/
theorem decode_packed : decode n w (encodeRecord i).packed = .ok i := by
  cases i with
  | add | sub | and | or | xor | mul | cmp | ldr => exact Laws.decodeRRR_ok n _ _ _ _ _ _ _ h
  | addl | subl | load | jal => exact Laws.decodeRRI_ok n w _ _ _ _ _ _ _ h
  | movc => exact Laws.decodeRI_ok n w _ _ _ _ _ _ _ h
  | store => exact Laws.decodeSRI_ok n w _ _ _ _ _ _ _ h
  | str => exact Laws.decodeSRR_ok n _ _ _ _ _ _ _ h
  | jump => exact Laws.decodeJI_ok n w _ _ _ _ _ _ _ h
  | bz | bnz => exact Laws.decodeI_ok w _ _ _ _ _ _ _ h
  | nop | halt => rfl

/-- The immediate of a well-formed instruction is a word (R80, R85). -/
theorem Instr.immOk_of_wf : Machine.Instr.ImmOk w i := by
  have h0 : isWord w 0 := Machine.zero_isWord w
  cases i <;> simp_all [Instr.wf, Machine.Instr.ImmOk, encodeImm]

/-- The register fields of the key word have four bits each, since N_ARCH is at most 16. -/
theorem encodeKey_lt_and_unpackKey (hn : n ≤ 16) :
    encodeKey i < 2097152 ∧ unpackKey (encodeKey i) (encodeImm i) = (encodeRecord i).packed := by
  have hs : (encodeRecord i).packed.Spells n w i := decode_spells (decode_packed h)
  have lt : ∀ {o : Option Nat}, (∀ a, o = some a → a < n) → o.getD 0 < 16 := by
    intro o ho
    cases o with
    | none => decide
    | some a => exact (ho a rfl).trans_le hn
  have hrd := lt fun a ha => (hs.rd a ha).2
  have h1 := lt fun a ha => (hs.rs1 a ha).2
  have h2 := lt fun a ha => (hs.rs2 a ha).2
  have h3 := lt fun a ha => (hs.rs3 a ha).2
  have hop := (encodeRecord i).opcode.isLt
  rw [encodeKey_eq_packKey, encodeImm_eq_imm, unpackKey_packKey hop hrd h1 h2 h3, BitVec.ofNat_toNat, BitVec.setWidth_eq]
  exact ⟨packKey_lt hop hrd h1 h2 h3, rfl⟩

theorem decodeKey_encode (hn : n ≤ 16) : decodeKey n w (encodeKey i) (encodeImm i) = .ok i := by
  obtain ⟨hlt, hun⟩ := encodeKey_lt_and_unpackKey h hn
  rw [decodeKey, if_pos hlt, hun, decode_packed h]

end

/-- A 64-bit image has the key in its lower half and the immediate in its upper half (log 6). -/
theorem decodeTableWord_of_halves {key imm : Nat} {i : Instr} (hk : key < 2 ^ 32) (hi : isWord 32 imm)
    (h : decodeKey 16 32 key imm = .ok i) : decodeTableWord 64 (key + 2 ^ 32 * imm) = some i := by
  have hlo : (key + 2 ^ 32 * imm) % 2 ^ 64 % 4294967296 = key := by omega
  have hhi : (key + 2 ^ 32 * imm) % 2 ^ 64 / 4294967296 % 4294967296 = imm := by omega
  have hd : decodeKey Params.default.nArch Params.default.xlen key imm = .ok i := h
  rw [decodeTableWord, hlo, hhi, hd]

/-- Settles O2: the key word unpacks to the packed record of the instruction, which decodes as its record does; the 64-bit image
splits into the key word and the immediate. -/
theorem decodeOfEncode : Obligations.DecodeOfEncode := by
  unfold Obligations.DecodeOfEncode
  refine ⟨fun n w i hn h => decodeKey_encode h hn, fun i h => ?_⟩
  have hk : encodeKey i < 2 ^ 32 := (encodeKey_lt_and_unpackKey h le_rfl).1.trans (by decide)
  exact decodeTableWord_of_halves hk (Instr.immOk_of_wf h) (decodeKey_encode h le_rfl)

/-- Settles O1: the words of 95_test_vectors.md are closed terms, which the decoder evaluates. -/
theorem tableWordsDecode : Obligations.TableWordsDecode := by
  unfold Obligations.TableWordsDecode
  decide

end Sys2Proof

/-! PROOF. Progress (O49): every stage of a machine with its latches in order answers a next state, so the cycle does. -/

namespace Sys2Proof.Machine

/-- The outcome is a next state, with its latches in order and at the stage of a cycle boundary. -/
def Proceeds (o : Result) : Prop := ∃ t, o = .next t ∧ t.UnitsOk ∧ t.stage = .dispatch

/-- A stage that answers a next state proceeds if it keeps the latches in order. -/
theorem proceeds_of_next {o : Result} (hn : ∃ t, o = .next t) (hk : ∀ t, o = .next t → t.UnitsOk ∧ t.stage = .dispatch) :
    Proceeds o := by
  obtain ⟨t, ht⟩ := hn
  exact ⟨t, ht, hk t ht⟩

theorem Proceeds.andThen {o : Result} {f : State → Result} (ho : Proceeds o)
    (hf : ∀ s, s.UnitsOk → s.stage = .dispatch → Proceeds (f s)) : Proceeds (andThen o f) := by
  obtain ⟨t, rfl, hu, hst⟩ := ho
  simp only [Machine.andThen]
  split
  · exact ⟨t, rfl, hu, hst⟩
  · exact hf t hu hst

/-! ### Commit and dispatch, which no latch can stop -/

theorem commitLoop_next (n : Nat) : ∀ s : State, s.stage = .dispatch → ∃ t, commitLoop n s = .next t := by
  induction n with
  | zero => exact fun s _ => ⟨s, rfl⟩
  | succ n ih =>
    intro s hst
    unfold commitLoop
    cases he : s.headEntry with
    | none => exact ⟨s, rfl⟩
    | some e =>
      obtain ⟨u, hu, hc⟩ := runStage_commit e.insn s e hst he
      simp only [hu]
      repeat' split
      · exact ⟨u, rfl⟩
      · exact ih u (hc.stage_eq.trans hst)
      · exact ⟨s, rfl⟩

theorem dispatchStage_next {s : State} (hst : s.stage = .dispatch) : ∃ t, dispatchStage s = .next t := by
  unfold dispatchStage
  cases hd : s.ld with
  | none => exact ⟨s, rfl⟩
  | some d =>
    obtain ⟨r, hr⟩ | hr | ⟨ps, _, _, hr⟩ := runStage_dispatch s d hst hd
    · exact ⟨_, hr⟩
    · exact ⟨_, hr⟩
    · exact ⟨_, hr⟩

/-! ### The units: the law of a stage leaves a refusal only for a class that the latch does not hold -/

namespace State.UnitsOk

variable {s : State} (h : s.UnitsOk) (hst : s.stage = .dispatch)
include h hst

theorem accessStage_proceeds : Proceeds (accessStage s) := by
  refine proceeds_of_next ?_ fun t => unitsOk_preserved.toUnitsKeep.accessStage s t h hst
  unfold accessStage
  cases hl : s.lAcc with
  | none => exact ⟨s, rfl⟩
  | some m =>
    obtain ⟨_, ⟨_, _, hr⟩ | hr | hr⟩ :=
      (runStage_access m.entry.insn s m hst hl).resolve_right fun hn => hn.1 (h.acc m hl)
    · exact ⟨_, hr⟩
    · exact ⟨_, hr⟩
    · exact ⟨_, hr⟩

theorem agenStage_proceeds : Proceeds (agenStage s) := by
  refine proceeds_of_next ?_ fun t => unitsOk_preserved.toUnitsKeep.agenStage s t h hst
  unfold agenStage
  cases hl : s.lMem1 with
  | none => exact ⟨s, rfl⟩
  | some u =>
    obtain ⟨_, _, _, _, _, hr⟩ := (runStage_mem1 u.insn s u hst hl).resolve_right fun hn => hn.1 (h.mem1 u hl)
    exact ⟨_, hr⟩

theorem resolveStage_proceeds : Proceeds (resolveStage s) := by
  refine proceeds_of_next ?_ fun t => unitsOk_preserved.toUnitsKeep.resolveStage s t h hst
  unfold resolveStage
  cases hl : s.lBru2 with
  | none => exact ⟨s, rfl⟩
  | some b =>
    obtain ⟨_, _, hr⟩ := (runStage_bru2 b.entry.insn s b hst hl).resolve_right fun hn => hn.1 (h.bru2 b hl)
    exact ⟨_, hr⟩

theorem targetStage_proceeds : Proceeds (targetStage s) := by
  refine proceeds_of_next ?_ fun t => unitsOk_preserved.toComputeKeeps.targetStage s t h hst
  unfold targetStage
  cases hl : s.lBru1 with
  | none => exact ⟨s, rfl⟩
  | some u =>
    obtain ⟨_, _, _, _, _, hr⟩ := (runStage_bru1 u.insn s u hst hl).resolve_right fun hn => hn.1 (h.bru1 u hl)
    exact ⟨_, hr⟩

theorem mulWriteStage_proceeds : Proceeds (mulWriteStage s) := by
  refine proceeds_of_next ?_ fun t => unitsOk_preserved.toComputeKeeps.mulWriteStage s t h hst
  unfold mulWriteStage
  cases hl : s.lMul3 with
  | none => exact ⟨s, rfl⟩
  | some m =>
    obtain ⟨_, hr⟩ := (runStage_mul3 m.entry.insn s m hst hl).resolve_right fun hn => hn.1 (h.mul3 m hl)
    exact ⟨_, hr⟩

theorem mulStartStage_proceeds : Proceeds (mulStartStage s) := by
  refine proceeds_of_next ?_ fun t => unitsOk_preserved.toComputeKeeps.mulStartStage s t h hst
  unfold mulStartStage
  cases hl : s.lMul1 with
  | none => exact ⟨s, rfl⟩
  | some u =>
    obtain ⟨_, _, _, hr⟩ := (runStage_mul1 u.insn s u hst hl).resolve_right fun hn => hn.1 (h.mul1 u hl)
    exact ⟨_, hr⟩

theorem integerStage_proceeds : Proceeds (integerStage s) := by
  refine proceeds_of_next ?_ fun t => unitsOk_preserved.toComputeKeeps.integerStage s t h hst
  unfold integerStage
  cases hl : s.lInt with
  | none => exact ⟨s, rfl⟩
  | some u =>
    obtain ⟨_, _, _, _, _, hr⟩ := (runStage_int u.insn s u hst hl).resolve_right fun hn => hn.1 (h.int u hl)
    exact ⟨_, hr⟩

/-! ### The cycle (R101) -/

theorem memoryStages_proceeds : Proceeds (memoryStages s) :=
  (h.accessStage_proceeds hst).andThen fun a hu ha =>
    State.UnitsOk.agenStage_proceeds (unitsOk_preserved.pass a hu) ((passStage_stage a).trans ha)

theorem executeStages_proceeds : Proceeds (executeStages s) := by
  have h1 := (h.resolveStage_proceeds hst).andThen fun _ hu ha => hu.targetStage_proceeds ha
  have h2 := h1.andThen fun _ hu ha => hu.mulWriteStage_proceeds ha
  have h3 := h2.andThen (f := fun a => mulStartStage (mulPassStage a)) fun a hu ha =>
    State.UnitsOk.mulStartStage_proceeds (unitsOk_preserved.mulPass a hu) ha
  exact h3.andThen fun _ hu ha => hu.integerStage_proceeds ha

theorem beforeIssue_proceeds : Proceeds (beforeIssue s) := by
  have hc : Proceeds (commitStage (startCycle s)) :=
    proceeds_of_next (commitLoop_next _ _ hst) fun t => unitsOk_preserved.toCommitKeeps.commitStage s t h hst
  exact hc.andThen fun _ hu ha =>
    (hu.memoryStages_proceeds ha).andThen fun _ hu hb => hu.executeStages_proceeds hb

theorem frontStages_proceeds : Proceeds (frontStages s) := by
  have hd : Proceeds (issueAndDispatch s) :=
    proceeds_of_next (dispatchStage_next ((issueStage_stage s).trans hst)) fun t =>
      unitsOk_preserved.toFrontKeeps.issueAndDispatch s t h hst
  exact hd.andThen fun a hu ha => ⟨_, rfl, unitsOk_preserved.finish _ (unitsOk_preserved.fetch a hu),
    (endCycle_stage _).trans ((fetchStage_stage a).trans ha)⟩

theorem cycle_proceeds : Proceeds (cycle s) :=
  (h.beforeIssue_proceeds hst).andThen fun _ hu ha => hu.frontStages_proceeds ha

end State.UnitsOk

/-- Settles O49: a running machine takes a cycle, and no stage of it meets a micro-op of another class. -/
theorem runningMachineAlwaysSteps : Obligations.RunningMachineAlwaysSteps := by
  unfold Obligations.RunningMachineAlwaysSteps
  intro s hr hu
  obtain ⟨t, ht, _, hst⟩ := hu.cycle_proceeds hr.stage
  exact ⟨t, (step_eq_cycle hr.fault hr.halted).trans ht, hst⟩

end Sys2Proof.Machine

/-! PROOF. Reset and preload (O7, O8): the tables of the reset state are replicated entries, and a preload sets one entry of each. -/

namespace Sys2Proof.Machine

/-- Settles O7: a table of the reset state holds the reset entry at every index below its size. -/
theorem resetValues : Obligations.ResetValues := by
  unfold Obligations.ResetValues
  refine ⟨fun _ h => List.getElem?_replicate_of_lt h, rfl,
    fun _ h => ⟨List.getElem?_replicate_of_lt h, List.getElem?_replicate_of_lt h⟩, rfl, rfl,
    fun _ h => List.getElem?_replicate_of_lt h, rfl, fun _ h => List.getElem?_replicate_of_lt h, rfl, ?fields⟩
  case fields => simp [State.reset, State.resetWith, Params.default, Mem.read]

section

variable {s : State} {r : Nat} (v : Word)

theorem State.archReg_preloadReg_same (hr : r < s.rrat.length) (hp : r < s.prf.length) :
    (s.preloadReg r v).archReg r = some v := by
  refine State.archReg_eq_some.2 ⟨r, ?_, ?_⟩
  · simp [State.retired, State.preloadReg, hr]
  · simp [State.physValue, State.preloadReg, hp]

/-- A register whose value is not in slot `r` keeps its mapping and the value of its slot. -/
theorem State.archReg_preloadReg_other {q : Nat} (hq : q ≠ r) (hm : s.rrat[q]? ≠ some (some r)) :
    (s.preloadReg r v).archReg q = s.archReg q := by
  have hret : (s.preloadReg r v).retired q = s.retired q := by
    simp only [State.retired, State.preloadReg, List.getElem?_set_ne hq.symm]
  rw [State.archReg, State.archReg, hret]
  cases hs : s.retired q with
  | none => rfl
  | some p =>
    have hp : r ≠ p := by
      rintro rfl
      exact hm (Option.join_eq_some_iff.1 hs)
    simp only [State.physValue, State.preloadReg, List.getElem?_set_ne hp]

end

/-- Settles O8: a preload sets entry `r` of the file and of both tables, and leaves every other entry. -/
theorem preloadedRegisterHoldsItsValue : Obligations.PreloadedRegisterHoldsItsValue := by
  unfold Obligations.PreloadedRegisterHoldsItsValue
  intro s r v hr hsr hp
  exact ⟨State.archReg_preloadReg_same v hr hp, List.getElem?_set_self hp, List.getElem?_set_self hsr,
    List.getElem?_set_self hr, fun q hq hm => State.archReg_preloadReg_other v hq hm⟩

end Sys2Proof.Machine

/-! PROOF. The launch (O56): a preload keeps the identity mapping (D9) and writes only the registers, the two tables and the data
memory, and a state that is the reset state but for those and the store meets every invariant. -/

namespace Sys2Proof.Machine

/-- `s` is the reset state of a machine with the parameters `p` but for the store and the preload (R291 to R293): both tables map
a register to the slot of its own number or to none, and the slots so mapped are the busy ones. -/
structure State.Fresh (p : Params) (s : State) : Prop where
  frame : s = { State.resetWith p with prf := s.prf, srat := s.rrat, rrat := s.rrat, imem := s.imem, dmem := s.dmem }
  registers : s.rrat.length = p.nArch
  identity : ∀ q x : Nat, s.rrat[q]? = some (some x) → x = q
  busy : ∀ q : Nat, BusyAt s.prf q ↔ s.rrat[q]? = some (some q)
  values : ∀ r ∈ s.prf, isWord p.xlen r.value
  store : ∀ i ∈ s.imem, i.wf p.nArch p.xlen = true
  canonical : Mem.wf s.dmem
  range : ∀ c ∈ s.dmem, c.1 < p.dmemSize
  cells : ∀ c ∈ s.dmem, isWord p.xlen c.2

/-! ### A launch leads there -/

theorem resetWith_fresh (p : Params) {is : List Instr} (h : ∀ i ∈ is, i.wf p.nArch p.xlen = true) :
    State.Fresh p { State.resetWith p with imem := is } where
  frame := rfl
  registers := List.length_replicate
  identity q x hq := by simp [State.resetWith, List.getElem?_replicate] at hq
  busy q := by simp [BusyAt, State.resetWith, List.getElem?_replicate]
  values r hr := List.eq_of_mem_replicate hr ▸ zero_isWord _
  store := h
  canonical := ⟨.nil, nofun⟩
  range := nofun
  cells := nofun

/-- Every instruction of a store that is built is well formed (R87). -/
theorem buildStore_wf {n w : Nat} : ∀ {rs : List Record} {is : List Instr}, buildStore n w rs = .ok is →
    ∀ i ∈ is, i.wf n w = true := by
  intro rs
  induction rs with
  | nil => rintro _ ⟨⟩; nofun
  | cons r rs ih =>
    intro is h
    unfold buildStore at h
    cases hd : decode n w r with
    | error e => simp [hd] at h
    | ok i =>
      cases hb : buildStore n w rs with
      | error e => simp [hd, hb] at h
      | ok js =>
        simp only [hd, hb, Except.ok.injEq] at h
        subst h
        exact List.forall_mem_cons.2 ⟨(decode_spells hd).wf, ih hb⟩

/-- The slot that is set is busy if its new contents are, and no other slot changes. -/
theorem busyAt_set {prf : List PhysReg} {r : Nat} (hr : r < prf.length) (v : Word) (q : Nat) :
    BusyAt (prf.set r ⟨v, true, true⟩) q ↔ q = r ∨ BusyAt prf q := by
  by_cases hq : r = q
  · subst hq
    simp [BusyAt, hr]
  · simp [BusyAt, List.getElem?_set_ne hq, Ne.symm hq]

section

variable {p : Params} {s : State}

theorem State.Fresh.preloadReg (h : s.Fresh p) {r : Nat} {v : Word} (hr : r < s.rrat.length) (hp : r < s.prf.length)
    (hv : isWord p.xlen v) : (s.preloadReg r v).Fresh p :=
  have mapped : ∀ q, q ≠ r → (s.rrat.set r (some r))[q]? = s.rrat[q]? := fun q hq => List.getElem?_set_ne hq.symm
  have own : (s.rrat.set r (some r))[r]? = some (some r) := List.getElem?_set_self hr
  { h with
    frame := by rw [h.frame]; rfl
    registers := List.length_set.trans h.registers
    identity := fun q x hq => by
      by_cases hqr : q = r
      · subst hqr
        exact (Option.some.inj (Option.some.inj (own.symm.trans hq))).symm
      · exact h.identity q x ((mapped q hqr).symm.trans hq)
    busy := fun q => by
      refine (busyAt_set hp v q).trans ?_
      by_cases hqr : q = r
      · subst hqr
        exact iff_of_true (.inl rfl) own
      · rw [or_iff_right hqr, h.busy]
        exact (mapped q hqr).symm ▸ Iff.rfl
    values := fun x hx => (List.mem_or_eq_of_mem_set hx).elim (h.values x) fun hx => hx ▸ hv }

theorem State.Fresh.preloadCell (h : s.Fresh p) {a : Nat} {v : Word} (ha : a < p.dmemSize) (hv : isWord p.xlen v) :
    (s.preloadCell a v).Fresh p :=
  { h with
    frame := by rw [h.frame]; rfl
    canonical := Mem.wf_write h.canonical a v
    range := fun c hc => (Mem.mem_write hc).elim (fun hc => hc ▸ ha) (h.range c)
    cells := fun c hc => (Mem.mem_write hc).elim (fun hc => hc ▸ hv) (h.cells c) }

theorem State.Fresh.xlen_eq (h : s.Fresh p) : s.xlen = p.xlen := by rw [h.frame]; rfl

theorem State.Fresh.dmemSize_eq (h : s.Fresh p) : s.dmemSize = p.dmemSize := by rw [h.frame]; rfl

end

theorem preloadRegs_fresh {p : Params} (regs : List (Nat × Word)) : ∀ {s t : State}, s.Fresh p → preloadRegs s regs = .ok t →
    t.Fresh p := by
  induction regs with
  | nil => rintro s _ hs ⟨⟩; exact hs
  | cons c regs ih =>
    intro s t hs h
    unfold preloadRegs at h
    split at h
    · rename_i hr
      split at h
      · rename_i hv
        exact ih (hs.preloadReg hr.1 hr.2 (hs.xlen_eq ▸ hv)) h
      · cases h
    · cases h

theorem preloadCells_fresh {p : Params} (cells : List (Nat × Word)) : ∀ {s t : State}, s.Fresh p →
    preloadCells s cells = .ok t → t.Fresh p := by
  induction cells with
  | nil => rintro s _ hs ⟨⟩; exact hs
  | cons c cells ih =>
    intro s t hs h
    unfold preloadCells at h
    split at h
    · rename_i ha
      split at h
      · rename_i hv
        exact ih (hs.preloadCell (hs.dmemSize_eq ▸ ha) (hs.xlen_eq ▸ hv)) h
      · cases h
    · cases h

theorem launch_badParams {p : Params} (hp : ¬ p.wf) (store : List Record) (regs cells : List (Nat × Word)) :
    launch p store regs cells = .error .badParams := if_neg hp

theorem launch_fresh {p : Params} {store : List Record} {regs cells : List (Nat × Word)} {s : State}
    (h : launch p store regs cells = .ok s) : p.wf ∧ s.Fresh p := by
  by_cases hp : p.wf
  · rw [launch, if_pos hp] at h
    cases hb : buildStore p.nArch p.xlen store with
    | error e => simp [hb] at h
    | ok is =>
      cases hr : preloadRegs { State.resetWith p with imem := is } regs with
      | error e => simp [hb, hr] at h
      | ok t =>
        simp only [hb, hr] at h
        exact ⟨hp, preloadCells_fresh cells (preloadRegs_fresh regs (resetWith_fresh p (buildStore_wf hb)) hr) h⟩
  · rw [launch_badParams hp] at h
    cases h

/-! ### What holds there -/

/-- A table of free entries has no occupied one. -/
theorem not_mem_replicate_none {α : Type} (n : Nat) (x : α) : some x ∉ List.replicate n (none : Option α) := by
  simp

namespace State.Fresh

variable {p : Params} {s : State} (h : s.Fresh p)
include h

theorem nothingInFlight : s.NothingInFlight := by
  rw [h.frame]
  exact ⟨⟨rfl, fun _ => List.eq_of_mem_replicate, rfl, rfl, rfl, rfl, rfl, rfl, rfl, fun _ => List.eq_of_mem_replicate, rfl⟩,
    rfl, rfl⟩

theorem running : s.Running := by
  rw [h.frame]
  exact ⟨rfl, rfl, rfl⟩

theorem srat_eq_rrat : s.srat = s.rrat := by
  rw [h.frame]

theorem inFlight_eq_nil : s.inFlight = [] := s.inFlight_empty h.nothingInFlight.count

/-- A busy slot is mapped by the register of its number, and by no other, since the tables map a register to its own slot. -/
theorem mappedOnce {q : Nat} (hq : s.rrat[q]? = some (some q)) : s.MappedOnce q := by
  unfold State.MappedOnce
  rw [h.srat_eq_rrat]
  exact ⟨q, hq, hq, fun x hx => (h.identity x q (or_self_iff.1 hx)).symm⟩

theorem launched : Launched p s where
  nothing := h.nothingInFlight
  branchPending := by rw [h.frame]; rfl
  halted := h.running.halted
  fault := h.running.fault
  z := by rw [h.frame]; rfl
  busy q r hr hb := h.mappedOnce ((h.busy q).1 ⟨r, hr, hb⟩)
  store := h.store

theorem unitsOk : s.UnitsOk := by
  rw [h.frame]
  exact {
    int := forall_of_none, mul1 := forall_of_none, mul2 := forall_of_none, mul3 := forall_of_none
    bru1 := forall_of_none, bru2 := forall_of_none, mem1 := forall_of_none
    pass := fun m hm => (not_mem_replicate_none _ m hm).elim
    acc := forall_of_none }

/-- The empty window needs one entry (R10). -/
theorem robOk (hp : 1 ≤ p.nRob) : s.RobOk := by
  rw [h.frame]
  refine ⟨hp.trans_eq List.length_replicate.symm, Nat.zero_le _, (Nat.zero_mod _).symm,
    fun j _ => iff_of_false (fun hs => ?_) (Nat.not_lt_zero j)⟩
  obtain ⟨e, he⟩ := Option.isSome_iff_exists.1 hs
  exact not_mem_replicate_none _ e (State.mem_rob_of_robAt he)

theorem renameOk : s.RenameOk where
  tables := by
    rw [h.inFlight_eq_nil, h.srat_eq_rrat]
    exact .inl rfl
  halt := by
    rw [h.frame]
    nofun

theorem insnsOk : s.InsnsOk := by
  have hs := h.store
  rw [← h.registers] at hs
  rw [h.frame]
  exact {
    tables := rfl, store := hs, lf := forall_of_none, ld := forall_of_none
    rob := fun e he => (not_mem_replicate_none _ e he).elim }

/-- Only retirement mappings are accounted for, and each names the slot of its register. -/
theorem freeListOk : s.FreeListOk := by
  have ho : s.owned = s.rrat.filterMap id := by simp [State.owned_eq, h.inFlight_eq_nil, dests]
  refine s.freeListOk_iff.2 ⟨?nodup, fun q => ?busy⟩ <;> rw [ho]
  case nodup =>
    refine List.pairwise_filterMap.2 (List.pairwise_iff_getElem.2 fun i j hi hj hij x hx y hy => ?_)
    have hxi := h.identity i x ((List.getElem?_eq_getElem hi).trans (congrArg some hx))
    have hyj := h.identity j y ((List.getElem?_eq_getElem hj).trans (congrArg some hy))
    omega
  case busy =>
    rw [h.busy, List.mem_filterMap]
    constructor
    · exact fun hq => ⟨some q, List.mem_of_getElem? hq, rfl⟩
    · rintro ⟨_, hm, rfl⟩
      obtain ⟨i, hi⟩ := List.mem_iff_getElem?.1 hm
      exact h.identity i q hi ▸ hi

theorem branchOk : s.BranchOk := by
  rw [h.frame]
  exact State.branchOk_of_idle (by simp [queuedCtl, State.resetWith]) rfl rfl rfl

theorem memOk : s.MemOk := by
  refine ⟨h.canonical, ?_⟩
  rw [h.dmemSize_eq]
  exact h.range

theorem wordsOk (hp : isWord p.xlen p.basePc) : s.WordsOk := by
  rw [h.frame]
  exact {
    prf := h.values, pc := hp, lf := forall_of_none, ld := forall_of_none
    iq := fun u hu => (not_mem_replicate_none _ u hu).elim
    rob := fun e he => (not_mem_replicate_none _ e he).elim
    imem := fun i hi => Instr.immOk_of_wf (h.store i hi)
    int := forall_of_none, mul1 := forall_of_none, mul2 := forall_of_none, mul3 := forall_of_none
    bru1 := forall_of_none, bru2 := forall_of_none, mem1 := forall_of_none
    pass := fun m hm => (not_mem_replicate_none _ m hm).elim
    acc := forall_of_none, dmem := h.cells, basePc := hp }

/-- The launch predicate and the invariants, for a parameter record that a launch takes. -/
theorem meets_invariants (hp : p.wf) : Launched p s ∧ s.Running ∧ s.UnitsOk ∧ s.RobOk ∧ s.RenameOk ∧ s.InsnsOk ∧
    s.FreeListOk ∧ s.BranchOk ∧ s.MemOk ∧ s.WordsOk := by
  obtain ⟨⟨_, _, _, hrob, _⟩, _, _, _, _, _, _, _, hpc⟩ := hp
  exact ⟨h.launched, h.running, h.unitsOk, h.robOk hrob, h.renameOk, h.insnsOk, h.freeListOk, h.branchOk, h.memOk,
    h.wordsOk hpc⟩

end State.Fresh

/-- Settles O56: what a launch answers, and the reset state, is fresh for parameters that R10 allows. -/
theorem launchMeetsTheInvariants : Obligations.LaunchMeetsTheInvariants := by
  unfold Obligations.LaunchMeetsTheInvariants
  refine ⟨?launched, fun p store regs cells hp => launch_badParams hp store regs cells, ?reset⟩
  case launched =>
    intro p store regs cells s h
    obtain ⟨hp, hs⟩ := launch_fresh h
    exact ⟨hp, hs.meets_invariants hp⟩
  case reset =>
    have hr : State.reset.Fresh Params.default := resetWith_fresh Params.default (is := []) nofun
    exact hr.meets_invariants (by decide)

end Sys2Proof.Machine
